-- ==== Sys2Proof/Word.lean ====
section
/-! DEFINITION. The widths of the block's values (spec/00_scope.md R6: every value is unsigned). -/

namespace Sys2Proof

/-- A byte of a frame or of a response, and the CRC register's value (8 bits). -/
abbrev Byte := BitVec 8

/-- A word: an opcode, an argument or a validated response word (16 bits). -/
abbrev Word := BitVec 16

/-- The width of a host access and of an operation word (32 bits). -/
abbrev Word32 := BitVec 32

/-- A register number of the host interface (6 bits, R11). -/
abbrev RegNum := BitVec 6

end Sys2Proof
end

