-- ==== Sys2Proof/Machine/Catalog.lean ====
section
/-! DEFINITION. The catalog ROM `CAT` (spec/41_framer_tx.md R105, R106; a constant, never state: spec/10_state.md R25). -/

namespace Sys2Proof.Machine

/-- The seventeen catalog commands, in the order of their indexes 0 to 16 (R105). -/
inductive WireCmd where
  | reinit
  | wakeup
  | getSerialNumber
  | readMeasurement
  | startPeriodicMeasurement
  | stopPeriodicMeasurement
  | getDataReadyStatus
  | singleShotMeasurement
  | setSensorAltitude
  | getSensorAltitude
  | setAmbientPressure
  | getAmbientPressure
  | persistSettings
  | setAscEnabled
  | getAscEnabled
  | setAscTarget
  | getAscTarget
  deriving DecidableEq, Repr

/-- A row of the catalog (R25): the wire opcode, the response word count, whether the command is a write with
argument, and the mandatory delay after it in milliseconds. -/
structure CatRow where
  opcode : Word
  respWords : BitVec 2
  hasArg : Bool
  delayMs : Word32
  deriving DecidableEq, Repr

/-- The table of R105. -/
def catalogRow : WireCmd → CatRow
  | .reinit => ⟨0x3646#16, 0#2, false, 30#32⟩
  | .wakeup => ⟨0x36F6#16, 0#2, false, 30#32⟩
  | .getSerialNumber => ⟨0x3682#16, 3#2, false, 1#32⟩
  | .readMeasurement => ⟨0xEC05#16, 3#2, false, 1#32⟩
  | .startPeriodicMeasurement => ⟨0x21B1#16, 0#2, false, 5#32⟩
  | .stopPeriodicMeasurement => ⟨0x3F86#16, 0#2, false, 500#32⟩
  | .getDataReadyStatus => ⟨0xE4B8#16, 1#2, false, 1#32⟩
  | .singleShotMeasurement => ⟨0x219D#16, 0#2, false, 5000#32⟩
  | .setSensorAltitude => ⟨0x2427#16, 0#2, true, 1#32⟩
  | .getSensorAltitude => ⟨0x2322#16, 1#2, false, 1#32⟩
  | .setAmbientPressure => ⟨0xE000#16, 0#2, true, 1#32⟩
  | .getAmbientPressure => ⟨0xE000#16, 1#2, false, 1#32⟩
  | .persistSettings => ⟨0x3615#16, 0#2, false, 800#32⟩
  | .setAscEnabled => ⟨0x2416#16, 0#2, true, 1#32⟩
  | .getAscEnabled => ⟨0x2313#16, 1#2, false, 1#32⟩
  | .setAscTarget => ⟨0x243A#16, 0#2, true, 1#32⟩
  | .getAscTarget => ⟨0x233F#16, 1#2, false, 1#32⟩

/-- The commands by index: entry `i` is the row `CAT[i]`. -/
def wireCmds : List WireCmd :=
  [.reinit, .wakeup, .getSerialNumber, .readMeasurement, .startPeriodicMeasurement, .stopPeriodicMeasurement,
   .getDataReadyStatus, .singleShotMeasurement, .setSensorAltitude, .getSensorAltitude, .setAmbientPressure,
   .getAmbientPressure, .persistSettings, .setAscEnabled, .getAscEnabled, .setAscTarget, .getAscTarget]

/-- The index of a command (R105). -/
def catalogIndex : WireCmd → Byte
  | .reinit => 0#8
  | .wakeup => 1#8
  | .getSerialNumber => 2#8
  | .readMeasurement => 3#8
  | .startPeriodicMeasurement => 4#8
  | .stopPeriodicMeasurement => 5#8
  | .getDataReadyStatus => 6#8
  | .singleShotMeasurement => 7#8
  | .setSensorAltitude => 8#8
  | .getSensorAltitude => 9#8
  | .setAmbientPressure => 10#8
  | .getAmbientPressure => 11#8
  | .persistSettings => 12#8
  | .setAscEnabled => 13#8
  | .getAscEnabled => 14#8
  | .setAscTarget => 15#8
  | .getAscTarget => 16#8

/-- `CAT[i]`, none for an index above 16. -/
def catalogAt (i : Byte) : Option CatRow := (wireCmds[i.toNat]?).map catalogRow

end Sys2Proof.Machine
end

