-- ==== Sys2Proof/Machine/Checksum.lean ====
section
/-! DEFINITION. The checksum of the CRC unit (spec/40_crc.md R90 to R92): polynomial `0x31`, initial value `0xFF`,
most significant bit first, no reflection, no final exclusive-or. -/

namespace Sys2Proof.Machine

/-- `CRC_POLY` (R5). -/
def crcPoly : Byte := 0x31#8

/-- `CRC_INIT` (R5), also the checksum of the empty sequence and the reset value of `CRC`. -/
def crcStart : Byte := 0xFF#8

/-- One of the eight shifts of R90: the polynomial is exclusive-ored in when the bit shifted out is 1. -/
def crcShift (r : Byte) : Byte :=
  if r.getLsbD 7 then (r <<< 1) ^^^ crcPoly else r <<< 1

/-- `n` shifts. -/
def crcShifts : Nat → Byte → Byte
  | 0, r => r
  | n + 1, r => crcShifts n (crcShift r)

/-- `crc8_update(c, b)` of R90. -/
def crc8Update (c b : Byte) : Byte := crcShifts 8 (c ^^^ b)

/-- `crc8(bytes)` of R91: the bytes in sequence order from `0xFF`. -/
def crc8 (bytes : List Byte) : Byte := bytes.foldl crc8Update crcStart

end Sys2Proof.Machine
end

