-- ==== Sys2Proof/Machine/Operands.lean ====
section
/-! DEFINITION. Operand forms: the fields of an operation word (spec/30_encoding.md R60, R62), the big-endian split and
join of a 16-bit value (spec/41_framer_tx.md R100, spec/20_memory.md R43, R45). -/

namespace Sys2Proof.Machine

/-- `OPC`, bits 31 to 24 of an operation word. -/
def opcOf (v : Word32) : Byte := v.extractLsb' 24 8

/-- The index operand `A`, bits 23 to 16, all eight bits, never masked (R62). -/
def indexOperand (v : Word32) : Byte := v.extractLsb' 16 8

/-- The word operand `IMM`, bits 15 to 0 (R62). -/
def wordOperand (v : Word32) : Word := v.extractLsb' 0 16

/-- The byte operand `IMM[7:0]` (R62); that `IMM[15:8]` is zero is the decoder's check. -/
def byteOperand (imm : Word) : Byte := imm.extractLsb' 0 8

/-- `(OPC << 24) | (A << 16) | IMM`: the operation word with the three fields in place (R60, R73). -/
def opWord (opc a : Byte) (imm : Word) : Word32 :=
  opc.setWidth 32 <<< 24 ||| a.setWidth 32 <<< 16 ||| imm.setWidth 32

/-- "MSB" of a word (R6). -/
def msbOf (w : Word) : Byte := w.extractLsb' 8 8

/-- "LSB" of a word (R6). -/
def lsbOf (w : Word) : Byte := w.extractLsb' 0 8

/-- `be16(v)` of R100: the two bytes in transmission order. -/
def be16 (v : Word) : List Byte := [msbOf v, lsbOf v]

/-- `(m << 8) | l`: the word two wire bytes assemble (R45, R110). -/
def joinBytes (m l : Byte) : Word := m.setWidth 16 <<< 8 ||| l.setWidth 16

/-- The checksum of a word's two bytes, MSB first (R43, R95). -/
def crcOfWord (w : Word) : Byte := crc8 (be16 w)

/-- `cmd_frame(opcode)` of R101. -/
def cmdFrame (opcode : Word) : List Byte := be16 opcode

/-- `cmd_arg_frame(opcode, arg)` of R101: the CRC byte covers the argument's two bytes only. -/
def cmdArgFrame (opcode arg : Word) : List Byte := be16 opcode ++ be16 arg ++ [crcOfWord arg]

/-- `decode_word(m, l, c)` of R110: the word of a group, or none where its CRC byte does not match. -/
def decodeGroup (m l c : Byte) : Option Word :=
  if crc8 [m, l] = c then some (joinBytes m l) else none

/-- The low `8n` bits of a number as `n` bytes, most significant first: a frame read as one big-endian number (R77). -/
def beBytes : Nat → Nat → List Byte
  | 0, _ => []
  | n + 1, w => BitVec.ofNat 8 (w >>> (8 * n)) :: beBytes n w

end Sys2Proof.Machine
end

