-- ==== Sys2Proof/Syntax.lean ====
section
/-! DEFINITION. The instructions: one constructor per row of spec/opcode_table.json, in the table's order. -/

namespace Sys2Proof

/-- The thirteen operations of the block (spec/30_encoding.md R64) and the seventeen wire commands of the
catalog (spec/41_framer_tx.md R105). Index operands (`encCat`, `decWord`, `decAll`) keep all eight bits of `A`:
a value out of range is a legal operation word that raises `RANGE` (R62, R64). A command of format `CMD5` carries
its argument and the CRC byte of its frame (R67). -/
inductive Instr where
  | nop
  | clr
  | crcInit
  | crcByte (b : Byte)
  | crcWord (w : Word)
  | encCmd (opcode : Word)
  | encArg (value : Word)
  | encCat (index : Byte)
  | rxClr
  | rxByte (b : Byte)
  | decWord (k : Byte)
  | decAll (n : Byte)
  | cvtMeas
  | reinit
  | wakeup
  | getSerialNumber
  | readMeasurement
  | startPeriodicMeasurement
  | stopPeriodicMeasurement
  | getDataReadyStatus
  | singleShotMeasurement
  | setSensorAltitude (arg : Word) (crc : Byte)
  | getSensorAltitude
  | setAmbientPressure (arg : Word) (crc : Byte)
  | getAmbientPressure
  | persistSettings
  | setAscEnabled (arg : Word) (crc : Byte)
  | getAscEnabled
  | setAscTarget (arg : Word) (crc : Byte)
  | getAscTarget
  deriving DecidableEq, Repr

end Sys2Proof
end

