-- ==== Sys2Proof/WellFormed.lean ====
section
/-! DEFINITION. Well-formed instructions. Every operand of an operation word has every value of its field
(spec/30_encoding.md R62: an index out of range is legal and raises `RANGE`); the one relation between fields is that of
the 5-byte frame, whose last byte is the `crc8` of the argument's two bytes (R67). -/

namespace Sys2Proof

/-- The fields of the instruction stand in the relation its format asks for (R67). -/
def WellFormed : Instr → Bool
  | .setSensorAltitude arg crc => crc == Machine.crcOfWord arg
  | .setAmbientPressure arg crc => crc == Machine.crcOfWord arg
  | .setAscEnabled arg crc => crc == Machine.crcOfWord arg
  | .setAscTarget arg crc => crc == Machine.crcOfWord arg
  | .nop | .clr | .crcInit | .crcByte _ | .crcWord _ | .encCmd _ | .encArg _ | .encCat _ | .rxClr | .rxByte _
  | .decWord _ | .decAll _ | .cvtMeas | .reinit | .wakeup | .getSerialNumber | .readMeasurement
  | .startPeriodicMeasurement | .stopPeriodicMeasurement | .getDataReadyStatus | .singleShotMeasurement
  | .getSensorAltitude | .getAmbientPressure | .persistSettings | .getAscEnabled | .getAscTarget => true

end Sys2Proof
end

