-- ==== Sys2Proof/Decode.lean ====
section
/-! DEFINITION. The decoder and, after it, the encoder. There are two encodings (spec/30_encoding.md): the operation word the
host writes to `CMD`, and the wire frame of a catalog command, which a decoder tells apart by length and opcode (R70). -/

namespace Sys2Proof

/-- Why an encoding is no instruction. -/
inductive DecodeError where
  /-- R65: the `OPC` is assigned to no operation. -/
  | reservedOpc (opc : Byte)
  /-- R62, R65: a must-be-zero field of an assigned `OPC` is not zero. -/
  | nonzeroField (opc : Byte)
  /-- R72: a command frame is 2 or 5 bytes long. -/
  | frameLength (n : Nat)
  /-- R70, R105: no catalog row has this opcode in a frame of this length. -/
  | unknownOpcode (opcode : Word)
  deriving DecidableEq, Repr

/-- An instruction as the hardware sees it: an operation word, or the bytes of a frame in transmission order. -/
inductive Encoded where
  | opw (v : Word32)
  | frame (bytes : List Byte)
  deriving DecidableEq, Repr

/-- A row of the operation map R64: `OPC`, `match`, `mask`, and the instruction of its operands `A` and `IMM`. -/
structure OpRow where
  opc : Byte
  pattern : Word32
  mask : Word32
  build : Byte → Word → Instr

/-- The operation map (R64), row by row. -/
def opRows : List OpRow :=
  [⟨0x00#8, 0x00000000#32, 0xFFFFFFFF#32, fun _ _ => .nop⟩,
   ⟨0x01#8, 0x01000000#32, 0xFFFFFFFF#32, fun _ _ => .clr⟩,
   ⟨0x10#8, 0x10000000#32, 0xFFFFFFFF#32, fun _ _ => .crcInit⟩,
   ⟨0x11#8, 0x11000000#32, 0xFFFFFF00#32, fun _ imm => .crcByte (Machine.byteOperand imm)⟩,
   ⟨0x12#8, 0x12000000#32, 0xFFFF0000#32, fun _ imm => .crcWord imm⟩,
   ⟨0x20#8, 0x20000000#32, 0xFFFF0000#32, fun _ imm => .encCmd imm⟩,
   ⟨0x21#8, 0x21000000#32, 0xFFFF0000#32, fun _ imm => .encArg imm⟩,
   ⟨0x22#8, 0x22000000#32, 0xFF00FFFF#32, fun a _ => .encCat a⟩,
   ⟨0x30#8, 0x30000000#32, 0xFFFFFFFF#32, fun _ _ => .rxClr⟩,
   ⟨0x31#8, 0x31000000#32, 0xFFFFFF00#32, fun _ imm => .rxByte (Machine.byteOperand imm)⟩,
   ⟨0x32#8, 0x32000000#32, 0xFF00FFFF#32, fun a _ => .decWord a⟩,
   ⟨0x33#8, 0x33000000#32, 0xFF00FFFF#32, fun a _ => .decAll a⟩,
   ⟨0x40#8, 0x40000000#32, 0xFFFFFFFF#32, fun _ _ => .cvtMeas⟩]

/-- Decoding an operation word, in the order of R63. -/
def decodeWord (v : Word32) : Except DecodeError Instr :=
  match opRows.find? (fun r => r.opc == Machine.opcOf v) with
  | none => .error (.reservedOpc (Machine.opcOf v))
  | some r =>
    if v &&& r.mask = r.pattern then .ok (r.build (Machine.indexOperand v) (Machine.wordOperand v))
    else .error (.nonzeroField r.opc)

/-- The instruction of a catalog command (the argument and CRC byte are those of a 5-byte frame). -/
def wireInstr (c : Machine.WireCmd) (arg : Word) (crc : Byte) : Instr :=
  match c with
  | .reinit => .reinit
  | .wakeup => .wakeup
  | .getSerialNumber => .getSerialNumber
  | .readMeasurement => .readMeasurement
  | .startPeriodicMeasurement => .startPeriodicMeasurement
  | .stopPeriodicMeasurement => .stopPeriodicMeasurement
  | .getDataReadyStatus => .getDataReadyStatus
  | .singleShotMeasurement => .singleShotMeasurement
  | .setSensorAltitude => .setSensorAltitude arg crc
  | .getSensorAltitude => .getSensorAltitude
  | .setAmbientPressure => .setAmbientPressure arg crc
  | .getAmbientPressure => .getAmbientPressure
  | .persistSettings => .persistSettings
  | .setAscEnabled => .setAscEnabled arg crc
  | .getAscEnabled => .getAscEnabled
  | .setAscTarget => .setAscTarget arg crc
  | .getAscTarget => .getAscTarget

/-- The catalog command a frame selects: its opcode, and whether the frame carries an argument (R70). -/
def commandOf (opcode : Word) (hasArg : Bool) : Option Machine.WireCmd :=
  Machine.wireCmds.find? (fun c =>
    (Machine.catalogRow c).opcode == opcode && (Machine.catalogRow c).hasArg == hasArg)

/-- Decoding a command frame, `CMD2` or `CMD5`, by the pair (length, opcode) and nothing else (R66, R67, R70, R72): the CRC
byte of a 5-byte frame is a field of the instruction (R77). That it is the `crc8` of the argument is `WellFormed`'s check. -/
def decodeFrame : List Byte → Except DecodeError Instr
  | [o1, o0] =>
    match commandOf (Machine.joinBytes o1 o0) false with
    | none => .error (.unknownOpcode (Machine.joinBytes o1 o0))
    | some c => .ok (wireInstr c 0#16 0#8)
  | [o1, o0, a1, a0, crc] =>
    match commandOf (Machine.joinBytes o1 o0) true with
    | none => .error (.unknownOpcode (Machine.joinBytes o1 o0))
    | some c => .ok (wireInstr c (Machine.joinBytes a1 a0) crc)
  | bytes => .error (.frameLength bytes.length)

/-- The decoder: total, and rejecting by name. -/
def decode : Encoded → Except DecodeError Instr
  | .opw v => decodeWord v
  | .frame bytes => decodeFrame bytes

/-- The 2-byte frame of a catalog command (R66). -/
def frame2 (c : Machine.WireCmd) : Encoded := .frame (Machine.be16 (Machine.catalogRow c).opcode)

/-- The 5-byte frame of a catalog command (R67), with the CRC byte the instruction carries. -/
def frame5 (c : Machine.WireCmd) (arg : Word) (crc : Byte) : Encoded :=
  .frame (Machine.be16 (Machine.catalogRow c).opcode ++ Machine.be16 arg ++ [crc])

/-- The encoder (R64, R66, R67, R73): the operand in the field its row names and zero elsewhere. -/
def encode : Instr → Encoded
  | .nop => .opw (Machine.opWord 0x00#8 0#8 0#16)
  | .clr => .opw (Machine.opWord 0x01#8 0#8 0#16)
  | .crcInit => .opw (Machine.opWord 0x10#8 0#8 0#16)
  | .crcByte b => .opw (Machine.opWord 0x11#8 0#8 (b.setWidth 16))
  | .crcWord w => .opw (Machine.opWord 0x12#8 0#8 w)
  | .encCmd v => .opw (Machine.opWord 0x20#8 0#8 v)
  | .encArg v => .opw (Machine.opWord 0x21#8 0#8 v)
  | .encCat i => .opw (Machine.opWord 0x22#8 i 0#16)
  | .rxClr => .opw (Machine.opWord 0x30#8 0#8 0#16)
  | .rxByte b => .opw (Machine.opWord 0x31#8 0#8 (b.setWidth 16))
  | .decWord k => .opw (Machine.opWord 0x32#8 k 0#16)
  | .decAll n => .opw (Machine.opWord 0x33#8 n 0#16)
  | .cvtMeas => .opw (Machine.opWord 0x40#8 0#8 0#16)
  | .reinit => frame2 .reinit
  | .wakeup => frame2 .wakeup
  | .getSerialNumber => frame2 .getSerialNumber
  | .readMeasurement => frame2 .readMeasurement
  | .startPeriodicMeasurement => frame2 .startPeriodicMeasurement
  | .stopPeriodicMeasurement => frame2 .stopPeriodicMeasurement
  | .getDataReadyStatus => frame2 .getDataReadyStatus
  | .singleShotMeasurement => frame2 .singleShotMeasurement
  | .setSensorAltitude arg crc => frame5 .setSensorAltitude arg crc
  | .getSensorAltitude => frame2 .getSensorAltitude
  | .setAmbientPressure arg crc => frame5 .setAmbientPressure arg crc
  | .getAmbientPressure => frame2 .getAmbientPressure
  | .persistSettings => frame2 .persistSettings
  | .setAscEnabled arg crc => frame5 .setAscEnabled arg crc
  | .getAscEnabled => frame2 .getAscEnabled
  | .setAscTarget arg crc => frame5 .setAscTarget arg crc
  | .getAscTarget => frame2 .getAscTarget

/-- A word of the opcode table as the hardware sees it: 32 bits are an operation word, any other width a frame read as
one big-endian number (R77). -/
def tableWord (nbits w : Nat) : Encoded :=
  if nbits = 32 then .opw (BitVec.ofNat 32 w) else .frame (Machine.beBytes (nbits / 8) w)

/-- The instruction the decoder reads from a word of the opcode table. -/
def decodeTableWord (nbits w : Nat) : Option Instr :=
  match decode (tableWord nbits w) with
  | .ok i => some i
  | .error _ => none

end Sys2Proof
end

