-- ==== Sys2Proof/Machine/Environment.lean ====
section
/-! DEFINITION. The host and its transport, as data: what the host does to the block, what the transport answers, what a
host call returns (spec/70_reset_and_hazards.md R160, R170 to R186; spec/60_exceptions.md R152). None of this is state of
the block (spec/10_state.md R30). -/

namespace Sys2Proof.Machine

/-- The outcome of one transport call, chosen by the environment (93_implementation_defined.md U6, U7). -/
inductive TransportReply where
  /-- The call succeeds; for a `read`, with these bytes. -/
  | ok (bytes : List Byte)
  /-- The call fails. -/
  | error
  /-- The call never returns (U6). -/
  | noReturn
  deriving DecidableEq, Repr, Inhabited

/-- A call of the transport or of the delay primitive, as a transport double sees it (R170; 95_test_vectors.md P7). -/
inductive TransportCall where
  | write (address : Byte) (bytes : List Byte)
  | sleep (milliseconds : Word32)
  | read (address : Byte) (length : Nat)
  deriving DecidableEq, Repr

/-- The sensor's operating modes (R176). -/
inductive SensorMode where
  | sleeping
  | idle
  | periodicMeasuring
  | singleShotPending
  deriving DecidableEq, Repr

/-- The error kinds a host call returns: the four of R152, and `InvalidStateError` of R178 under `STRICT_SESSION`. -/
inductive HostError where
  | ioWrite
  | ioRead
  | checksum
  | wakeup
  | invalidState
  deriving DecidableEq, Repr, Inhabited

/-- The value a successful host call returns. -/
inductive HostValue where
  /-- Nothing: the command has no response. -/
  | done
  /-- The one word of the response, unscaled (R183). -/
  | word (w : Word)
  /-- Data ready (R180). -/
  | ready (isReady : Bool)
  /-- Ambient pressure in pascal (R184). -/
  | pascals (p : Nat)
  /-- The 48-bit serial number (R182). -/
  | serial (v : BitVec 48)
  /-- A Measurement: `CO2`, and `TEMP` and `RH` as binary32 patterns (R181). -/
  | measurement (co2 : Word) (temp rh : Word32)
  deriving DecidableEq, Repr

/-- What a host call returns to its caller (R153). -/
inductive HostResult where
  | ok (v : HostValue)
  | error (e : HostError)
  deriving DecidableEq, Repr

/-- Host calls whose argument the host codes into the 16 bits of the frame (R183, R184). -/
inductive ApiCall where
  /-- `set_ambient_pressure` with a value in pascal (`PA_TO_HPA`). DESIGN CHOICE (log entry 14): the value is a natural
  number, neither negative nor fractional; the source says nothing on its type (N11). -/
  | setAmbientPressure (pascals : Nat)
  /-- `set_asc_enabled` with a value of the host's (`ASC_CODING`). DESIGN CHOICE (log entry 15): a natural number. -/
  | setAscEnabled (value : Nat)
  /-- `set_asc_target` with a value of the host's (`ASC_CODING`). DESIGN CHOICE (log entry 15): a natural number. -/
  | setAscTarget (value : Nat)
  deriving DecidableEq, Repr

/-- What the host does next. -/
inductive HostAction where
  /-- `RegRead(n)` (R7, R11). -/
  | regRead (n : RegNum)
  /-- `RegWrite(n, v)` (R7, R11, R13). -/
  | regWrite (n : RegNum) (v : Word32)
  /-- The host performs the wire command whose frame this is: a whole exchange (R171). -/
  | command (frame : List Byte)
  /-- The host makes one of the calls whose argument it codes itself. -/
  | api (call : ApiCall)
  /-- Step 2 of an exchange alone: `write` of the frame in `TXB` (R171). DESIGN CHOICE (log entry 23): with `TXLEN = 0` it
  is a `write` of no bytes (N22: the source says nothing of one). -/
  | send
  /-- Step 3 of an exchange alone (R171). -/
  | sleep (milliseconds : Word32)
  /-- Steps 4 and 5 of an exchange alone: `read`, and loading the bytes read (R171). DESIGN CHOICE (log entry 23): any
  length may be asked for, 0 and lengths above 9 included (N22: the source says nothing of these). -/
  | receive (length : Nat)
  /-- An access by a second host (R52). DESIGN CHOICE (log entry 25): it has a place in the first host's order, between two
  of its actions. -/
  | otherHost
  deriving DecidableEq, Repr

end Sys2Proof.Machine
end

