-- ==== Sys2Proof/Config.lean ====
section
/-! DEFINITION. The parameters of spec/00_scope.md R5 that are not constants of a definition, and the free values. An
`opaque` constant has no body: nothing can be proved of its value. -/

namespace Sys2Proof

/-- The two readings of the conversion arithmetic (spec/43_measurement_decoder.md R131). -/
inductive MeasArith where
  | f32Stepwise
  | f64ThenRound
  deriving DecidableEq, Repr

namespace Config

/-- `MEAS_ARITH`: its value for this block is `f32_stepwise` (R5, R131, D15). -/
def measArith : MeasArith := .f32Stepwise

/-- `BUS_ADDR`, OPEN (D30; spec/91_not_in_source.md N12). -/
opaque busAddr : Byte

/-- `STRICT_SESSION`, OPEN (D29). -/
opaque strictSession : Bool

/-- The part of `STRICT_SESSION` that says in which known mode `get_serial_number` is valid (D29, N16); the argument is
what the host knows of the sensor's mode. -/
opaque serialNumberAllowed : Option Machine.SensorMode → Bool

/-- `PA_TO_HPA`, OPEN (D28): the argument word of a value in pascal, rounding and out-of-range values included. DESIGN CHOICE
(log entry 14): a value in pascal is a natural number; the source says nothing on its type (N11). -/
opaque paToHpa : Nat → Word

/-- `ASC_CODING` of ASC enable, OPEN (D33). DESIGN CHOICE (log entry 15): the host's value is a natural number. -/
opaque ascEnabledCoding : Nat → Word

/-- `ASC_CODING` of the ASC target, OPEN (D33). DESIGN CHOICE (log entry 15): the host's value is a natural number. -/
opaque ascTargetCoding : Nat → Word

/-- The error a host call ends with where the `STATUS` word the host reads inside it shows an error other than
`CRC_MISMATCH`, or no valid bit for what the host asked for, which happens only after a reset inside the call: R152 names no
kind for it, so it is a free value of the word read. DESIGN CHOICE (log entry 21). -/
opaque statusErrorKind : Word32 → Machine.HostError

/-- What the transport answers to its `n`-th call where the state lists no outcome: a free value (93 U7: the environment
chooses success or failure, and the bytes of each read). -/
opaque freeReply : Nat → Machine.TransportReply

end Config
end Sys2Proof
end

