-- ==== Sys2Proof/Machine/State.lean ====
section
/-! DEFINITION. The state: the block's registers, exactly those of spec/10_state.md R10 (315 bits), and beside them the host
that drives the block. Plain data throughout. -/

namespace Sys2Proof.Machine

/-- The complete state of the block (R10). -/
structure Block where
  /-- `CRC`, the running checksum (R15). -/
  crc : Byte
  /-- `TXB[0..4]`, the command frame (R16). -/
  txb : Vector Byte 5
  /-- `TXLEN`: 0, 2 or 5 (R16). -/
  txlen : BitVec 3
  /-- `RXB[0..8]`, the response bytes, hidden from the host (R17). -/
  rxb : Vector Byte 9
  /-- `RXLEN`: 0 to 9 (R17). -/
  rxlen : BitVec 4
  /-- `W[0..2]`, the validated words (R18). -/
  w : Vector Word 3
  /-- `WV[0..2]`: `W[k]` holds a word whose CRC matched (R14). -/
  wv : Vector Bool 3
  /-- `CO2` of the last conversion (R19). -/
  co2 : Word
  /-- `TEMP` of the last conversion, a binary32 pattern (R20). -/
  temp : Word32
  /-- `RH` of the last conversion, a binary32 pattern (R21). -/
  rh : Word32
  /-- `MV`: the results hold a conversion of `W[0..2]` (R14). -/
  mv : Bool
  /-- `CATOP`, the opcode of the selected catalog row (R22). -/
  catop : Word
  /-- `RESPW`, its response word count (R23). -/
  respw : BitVec 2
  /-- `HASARG`: it is a write with argument (R23). -/
  hasarg : Bool
  /-- `CATDLY`, its delay in milliseconds (R24). -/
  catdly : Word32
  /-- `CATV`: a catalog row has been selected (R14). -/
  catv : Bool
  /-- `ERR`, the error code of the most recent operation (R14). -/
  err : BitVec 3
  /-- `STICKY`: some operation since reset or `CLR` ended in error (R14). -/
  sticky : Bool
  deriving DecidableEq, Repr

/-- The host side: the model's own fields for the other agent of R50. None of them is state of the block (R30). -/
structure HostSide where
  /-- What the host does next, oldest first: the position in the list is the host's (R12). -/
  pending : List HostAction
  /-- The value the latest `RegRead` returned. -/
  readData : Option Word32
  /-- The transport calls made, oldest first (R170). -/
  wire : List TransportCall
  /-- The outcomes of the next transport calls, oldest first (93 U7). -/
  replies : List TransportReply
  /-- The number of transport calls made, which picks the free outcome where `replies` is empty. -/
  calls : Nat
  /-- What the latest host call returned (R153). -/
  result : Option HostResult
  /-- What the host knows of the sensor's mode (R163, R178); kept only under `STRICT_SESSION`. -/
  mode : Option SensorMode
  /-- The known `Idle` is the post-single-shot `Idle` of R177. -/
  shotDone : Bool
  /-- Since the mode was last unknown the host has not yet succeeded with a stop or a start: the stop-before-start of
  R163 is still to come. -/
  stopOwed : Bool
  /-- A transport call never returned (93 U6): the host is stuck and takes no further action. -/
  hung : Bool
  /-- For the host's next accesses to the block in turn, whether the reset event of R160 reaches the block before the
  access; none does beyond the end of the list. Chosen from outside: the event is no act of the host. -/
  resets : List Bool
  deriving DecidableEq, Repr

/-- The whole state: the block and the host. -/
structure State where
  block : Block
  host : HostSide
  deriving DecidableEq, Repr

/-- Why the machine stops with a fault: it never does, so there is no reason. The block's errors are defined behaviour with a
next state (spec/60_exceptions.md R149), and a host that is stuck leaves the block idle (93 U6). -/
inductive Fault where
  deriving DecidableEq, Repr

/-- Why a host action has no meaning. -/
inductive Refusal where
  /-- Raised by an arm of `exec` that has no meaning yet. Safe. -/
  | notModelled (mnemonic : String)
  /-- Raised by `RegRead(0x00)`: a read of `CMD` is outside the contract (R33, V4). Safe. -/
  | readOfCmd
  /-- Raised by `RegRead(n)` and `RegWrite(n, v)` of a reserved register number (R33, V3). Safe. -/
  | reservedRegister (n : RegNum)
  /-- Raised by `RegWrite(n, v)` of a read-only register (R33, V4). Safe. -/
  | writeToReadOnly (n : RegNum)
  /-- Raised by an access of a second host (R52, U8). Safe. -/
  | secondHost
  /-- Raised by a wire command whose frame is no command frame of the catalog: not 2 or 5 bytes long (R72), or an opcode of
  no row (R70: its delay and response length are unknown; the host sends such a frame step by step instead, `ENC.CMD` and
  `send`, R71). Safe. -/
  | notACommandFrame (why : DecodeError)
  deriving DecidableEq, Repr

/-- Every register at its reset value (R29). -/
def Block.reset : Block where
  crc := 0xFF#8
  txb := #v[0#8, 0#8, 0#8, 0#8, 0#8]
  txlen := 0#3
  rxb := #v[0#8, 0#8, 0#8, 0#8, 0#8, 0#8, 0#8, 0#8, 0#8]
  rxlen := 0#4
  w := #v[0#16, 0#16, 0#16]
  wv := #v[false, false, false]
  co2 := 0#16
  temp := 0#32
  rh := 0#32
  mv := false
  catop := 0#16
  respw := 0#2
  hasarg := false
  catdly := 0#32
  catv := false
  err := 0#3
  sticky := false

/-- A host that has done nothing yet and knows nothing of the sensor (R162, R163). DESIGN CHOICE, log entries 3 to 9
and 24. -/
def HostSide.start : HostSide where
  pending := []
  readData := none
  wire := []
  replies := []
  calls := 0
  result := none
  mode := none
  shotDone := false
  stopOwed := true
  hung := false
  resets := []

/-- The machine right after reset (R29, R160, R161). -/
def State.reset : State := ⟨Block.reset, HostSide.start⟩

end Sys2Proof.Machine
end

