-- ==== Sys2Proof/Machine/Ops.lean ====
section
/-! DEFINITION. The shared operations over the block's registers: ending an operation with `OK` or with a raised error
(the block's one kind of exception: spec/60_exceptions.md R141, R145; there is no return from one, R147), the moment at which
the reset event may come, the buffers, the words, the catalog registers. -/

namespace Sys2Proof.Machine

/-- The errors of R140. -/
inductive BlockError where
  | crcMismatch
  | seq
  | range
  | length
  | illegalOp
  deriving DecidableEq, Repr

/-- `code(E)` of R140. -/
def errorCode : BlockError → BitVec 3
  | .crcMismatch => 1#3
  | .seq => 2#3
  | .range => 3#3
  | .length => 4#3
  | .illegalOp => 5#3

/-- How the pseudocode of an operation ends: at its end, or at a `raise`; each with the registers as written so far
(R137, R141). -/
inductive OpEnd where
  | done (b : Block)
  | raised (e : BlockError) (b : Block)
  deriving DecidableEq, Repr

/-- `raise E` (R141): `ERR <- code(E)`, `STICKY <- 1`, and nothing else; the writes already made stand. -/
def raiseError (e : BlockError) (b : Block) : Block := { b with err := errorCode e, sticky := true }

/-- The common tail of every operation (R137). -/
def finish : OpEnd → Block
  | .done b => { b with err := 0#3 }
  | .raised e b => raiseError e b

/-- Performs an operation of the block; the host's side is untouched (R50). -/
def operate (op : Block → OpEnd) (s : State) : State := { s with block := finish (op s.block) }

/-- Whether the reset event reaches the block before the host's next access. When it comes is chosen from outside (DESIGN
CHOICE, log entry 24). -/
def resetDue (h : HostSide) : Bool := h.resets.head?.getD false

/-- The moment before an access of the host to the block: the reset event arrives (R160, to the values of R29), or it does
not. Operations are atomic (R47), so there is no moment inside one. -/
def accessPoint (s : State) : State :=
  { block := if resetDue s.host then Block.reset else s.block
    host := { s.host with resets := s.host.resets.tail } }

/-- `TXB[i]`. -/
def txAt (b : Block) (i : Nat) : Byte := b.txb[i]?.getD 0#8

/-- `TXB` holds the 2-byte frame of an opcode, its tail zeroed (R102, R104). -/
def putCommand (opcode : Word) (b : Block) : Block :=
  { b with txb := #v[msbOf opcode, lsbOf opcode, 0#8, 0#8, 0#8], txlen := 2#3 }

/-- An argument and its CRC byte appended to the frame (R103). -/
def putArgument (v : Word) (c : Byte) (b : Block) : Block :=
  { b with txb := #v[b.txb[0], b.txb[1], msbOf v, lsbOf v, c], txlen := 5#3 }

/-- The frame the host hands to the transport: `TXB[0..TXLEN-1]` (R170). -/
def frameBytes (b : Block) : List Byte := b.txb.toList.take b.txlen.toNat

/-- The catalog registers hold a row (R104). -/
def publishRow (r : CatRow) (b : Block) : Block :=
  { b with catop := r.opcode, respw := r.respWords, hasarg := r.hasArg, catdly := r.delayMs, catv := true }

/-- `RXB[i]`. -/
def rxAt (b : Block) (i : Nat) : Byte := b.rxb[i]?.getD 0#8

/-- `RXB[RXLEN] <- v; RXLEN <- RXLEN + 1` (R113). -/
def pushByte (v : Byte) (b : Block) : Block :=
  { b with rxb := b.rxb.setIfInBounds b.rxlen.toNat v, rxlen := b.rxlen + 1#4 }

/-- The response buffer emptied and zeroed (R112). -/
def emptyResponse (b : Block) : Block :=
  { b with rxb := #v[0#8, 0#8, 0#8, 0#8, 0#8, 0#8, 0#8, 0#8, 0#8], rxlen := 0#4 }

/-- The checksum the CRC unit computes over the two data bytes of group `k` (R114, R115). -/
def groupCrc (b : Block) (k : Nat) : Byte := crc8 [rxAt b (3 * k), rxAt b (3 * k + 1)]

/-- The CRC byte received in group `k`. -/
def groupReceived (b : Block) (k : Nat) : Byte := rxAt b (3 * k + 2)

/-- The word of group `k`: `(RXB[3k] << 8) | RXB[3k+1]` (R45). -/
def groupWord (b : Block) (k : Nat) : Word := joinBytes (rxAt b (3 * k)) (rxAt b (3 * k + 1))

end Sys2Proof.Machine
end

