-- ==== Sys2Proof/Machine/CrcUnit.lean ====
section
/-! DEFINITION. The CRC unit's operations (spec/40_crc.md R93 to R95). -/

namespace Sys2Proof.Machine

/-- `CRC.INIT` (R93). -/
def opCrcInit (b : Block) : OpEnd := .done { b with crc := crcStart }

/-- `CRC.BYTE v` (R94): continues from whatever `CRC` holds. -/
def opCrcByte (v : Byte) (b : Block) : OpEnd := .done { b with crc := crc8Update b.crc v }

/-- `CRC.WORD v` (R95): from `0xFF`, MSB first. -/
def opCrcWord (v : Word) (b : Block) : OpEnd := .done { b with crc := crcOfWord v }

/-- The meaning of `CRC.INIT` (R93). -/
def execCrcInit (s : State) : Host.Outcome State Fault Refusal := .next (operate opCrcInit s)

/-- The meaning of `CRC.BYTE` (R94). -/
def execCrcByte (v : Byte) (s : State) : Host.Outcome State Fault Refusal := .next (operate (opCrcByte v) s)

/-- The meaning of `CRC.WORD` (R95). -/
def execCrcWord (v : Word) (s : State) : Host.Outcome State Fault Refusal := .next (operate (opCrcWord v) s)

end Sys2Proof.Machine
end

