-- ==== Sys2Proof/Machine/System.lean ====
section
/-! DEFINITION. System operations: `NOP`, `CLR`, and what an illegal operation word does (spec/44_system_ops.md). -/

namespace Sys2Proof.Machine

/-- `NOP` (R135): only the common tail. -/
def opNop (b : Block) : OpEnd := .done b

/-- `CLR` (R136): every register to its reset value, `STICKY` included. -/
def opClr (_ : Block) : OpEnd := .done Block.reset

/-- An illegal operation word (R65, R138): `raise ILLEGAL_OP`. -/
def opIllegal (b : Block) : OpEnd := .raised .illegalOp b

/-- The meaning of `NOP` (R135). -/
def execNop (s : State) : Host.Outcome State Fault Refusal := .next (operate opNop s)

/-- The meaning of `CLR` (R136). -/
def execClr (s : State) : Host.Outcome State Fault Refusal := .next (operate opClr s)

end Sys2Proof.Machine
end

