-- ==== Sys2Proof/Machine/Flags.lean ====
section
/-! DEFINITION. The flags: the `STATUS` and `CATINFO` views (spec/10_state.md R14, R23) and the valid bits of words and
measurement (R26). There are no arithmetic condition codes (R26) and no floating-point flags
(spec/43_measurement_decoder.md R130). `ERR` and `STICKY` are written by `finish` in Ops. -/

namespace Sys2Proof.Machine

/-- A flag in its place in a register read as 32 bits. -/
def flagBit (place : Nat) (v : Bool) : Word32 := (BitVec.ofBool v).setWidth 32 <<< place

/-- `STATUS`: `[2:0] ERR`, `[3] STICKY`, `[4..6] WV0..WV2`, `[7] MV`, `[8] CATV`, the rest 0 (R14). -/
def statusWord (b : Block) : Word32 :=
  b.err.setWidth 32 ||| flagBit 3 b.sticky ||| flagBit 4 b.wv[0] ||| flagBit 5 b.wv[1] ||| flagBit 6 b.wv[2]
    ||| flagBit 7 b.mv ||| flagBit 8 b.catv

/-- `CATINFO`: `[1:0] RESPW`, `[2] HASARG`, the rest 0 (R23). -/
def catInfoWord (b : Block) : Word32 := b.respw.setWidth 32 ||| flagBit 2 b.hasarg

/-- All three words are valid, which `CVT.MEAS` asks for (R128). -/
def allWordsValid (b : Block) : Bool := b.wv[0] && b.wv[1] && b.wv[2]

/-- The start of `DEC.WORD k`: `MV <- 0; WV[k] <- 0` (R114). -/
def startWord (k : Nat) (b : Block) : Block := { b with mv := false, wv := b.wv.setIfInBounds k false }

/-- The start of `DEC.ALL`: `MV` and all three `WV` cleared (R115). -/
def startAll (b : Block) : Block := { b with mv := false, wv := #v[false, false, false] }

/-- `W[k] <- v; WV[k] <- 1` (R114, R115): the only way a word becomes valid (R116). -/
def storeWord (k : Nat) (v : Word) (b : Block) : Block :=
  { b with w := b.w.setIfInBounds k v, wv := b.wv.setIfInBounds k true }

end Sys2Proof.Machine
end

