-- ==== Sys2Proof/Machine/Float.lean ====
section
/-! DEFINITION. Exact fractions and rounding to binary floating point, ties to even (spec/43_measurement_decoder.md R121),
for the range the unit uses: zero and magnitudes between 2^-12 and 2^24, where no subnormal, infinity or NaN arises (R121,
R127). -/

namespace Sys2Proof.Machine

/-- An exact fraction `num / den`; every fraction built here has a positive denominator. -/
structure Frac where
  num : Int
  den : Nat
  deriving DecidableEq, Repr

/-- An integer, exactly. -/
def Frac.ofInt (n : Int) : Frac := ⟨n, 1⟩

/-- The exact quotient by a positive integer. -/
def Frac.divNat (x : Frac) (d : Nat) : Frac := ⟨x.num, x.den * d⟩

/-- The exact sum with an integer. -/
def Frac.addInt (x : Frac) (n : Int) : Frac := ⟨x.num + n * x.den, x.den⟩

/-- `m * 2^e`, exactly. -/
def Frac.scaled (m : Int) (e : Int) : Frac :=
  if 0 ≤ e then ⟨m * (2 ^ e.toNat : Nat), 1⟩ else ⟨m, 2 ^ (-e).toNat⟩

/-- `n / d` scaled by `2^k`, as a pair numerator and denominator. -/
def scaleBy (k : Int) (n d : Nat) : Nat × Nat :=
  if 0 ≤ k then (n * 2 ^ k.toNat, d) else (n, d * 2 ^ (-k).toNat)

/-- The exponent `e` with `2^e <= n/d < 2^(e+1)`, for positive `n` and `d`. -/
def exponentOf (n d : Nat) : Int :=
  let e : Int := (n.log2 : Int) - (d.log2 : Int)
  let p := scaleBy (-e) n d
  if p.1 < p.2 then e - 1 else e

/-- `n / d` to the nearest integer, ties to even. -/
def nearestEven (n d : Nat) : Nat :=
  let q := n / d
  let r := n % d
  if d < 2 * r ∨ (2 * r = d ∧ q % 2 = 1) then q + 1 else q

/-- `x` rounded to `prec` significant bits, ties to even: `f32` of R121 as a value for `prec = 24`, binary64 for
`prec = 53` (R131). -/
def roundTo (prec : Nat) (x : Frac) : Frac :=
  let n := x.num.natAbs
  if n = 0 then ⟨0, 1⟩
  else
    let k : Int := exponentOf n x.den + 1 - prec
    let p := scaleBy (-k) n x.den
    let m : Int := nearestEven p.1 p.2
    Frac.scaled (if x.num < 0 then -m else m) k

/-- The bit pattern of a value that is a binary32 number: sign, exponent biased by 127, fraction (R20, R121). -/
def packBinary32 (x : Frac) : Word32 :=
  let n := x.num.natAbs
  if n = 0 then 0#32
  else
    let e := exponentOf n x.den
    let p := scaleBy (23 - e) n x.den
    let significand := p.1 / p.2
    (BitVec.ofBool (decide (x.num < 0))).setWidth 32 <<< 31 ||| BitVec.ofNat 32 (e + 127).toNat <<< 23
      ||| BitVec.ofNat 32 (significand - 2 ^ 23)

/-- The value of a binary32 bit pattern: zero, or a normal number (R121). -/
def binary32Value (v : Word32) : Frac :=
  let e := (v.extractLsb' 23 8).toNat
  let f := (v.extractLsb' 0 23).toNat
  if e = 0 then ⟨0, 1⟩
  else
    let m : Int := (2 ^ 23 + f : Nat)
    Frac.scaled (if v.getLsbD 31 then -m else m) ((e : Int) - 150)

/-- `f32(x)` of R121, as a bit pattern. -/
def f32 (x : Frac) : Word32 := packBinary32 (roundTo 24 x)

end Sys2Proof.Machine
end

