-- ==== Sys2Proof/Machine/Measurement.lean ====
section
/-! DEFINITION. The measurement decoder (spec/43_measurement_decoder.md): the conversions under both readings of
`MEAS_ARITH`, and `CVT.MEAS`. No clamping (R129), no flags (R130). -/

namespace Sys2Proof.Machine

/-- `temp_f32(t)` of R123: multiply (exact), divide and round, add -45 and round. -/
def tempF32 (t : Word) : Word32 :=
  let p := f32 (Frac.ofInt (175 * t.toNat))
  let q := f32 ((binary32Value p).divNat 65535)
  f32 ((binary32Value q).addInt (-45))

/-- `rh_f32(h)` of R124: multiply (exact), divide and round. -/
def rhF32 (h : Word) : Word32 :=
  let p := f32 (Frac.ofInt (100 * h.toNat))
  f32 ((binary32Value p).divNat 65535)

/-- The temperature under `f64_then_round` (R131): each step in binary64, then once to binary32. -/
def tempF64 (t : Word) : Word32 :=
  let p := roundTo 53 (Frac.ofInt (175 * t.toNat))
  let q := roundTo 53 (p.divNat 65535)
  f32 (roundTo 53 (q.addInt (-45)))

/-- The humidity under `f64_then_round` (R131). -/
def rhF64 (h : Word) : Word32 :=
  let p := roundTo 53 (Frac.ofInt (100 * h.toNat))
  f32 (roundTo 53 (p.divNat 65535))

/-- The temperature conversion the parameter `MEAS_ARITH` selects (R131). -/
def convertTemp : MeasArith → Word → Word32
  | .f32Stepwise, t => tempF32 t
  | .f64ThenRound, t => tempF64 t

/-- The humidity conversion the parameter `MEAS_ARITH` selects (R131). -/
def convertRh : MeasArith → Word → Word32
  | .f32Stepwise, h => rhF32 h
  | .f64ThenRound, h => rhF64 h

/-- `CVT.MEAS` (R128): `SEQ` unless all three words are valid; `CO2` is the word unchanged (R125). -/
def opCvtMeas (b : Block) : OpEnd :=
  if allWordsValid b then
    .done { b with
      co2 := b.w[0]
      temp := convertTemp Config.measArith b.w[1]
      rh := convertRh Config.measArith b.w[2]
      mv := true }
  else .raised .seq b

/-- The meaning of `CVT.MEAS` (R128). -/
def execCvtMeas (s : State) : Host.Outcome State Fault Refusal := .next (operate opCvtMeas s)

end Sys2Proof.Machine
end

