-- ==== Sys2Proof/Machine/FramerRx.lean ====
section
/-! DEFINITION. The receive framer's operations (spec/42_framer_rx.md R112 to R115). -/

namespace Sys2Proof.Machine

/-- `RX.CLR` (R112). -/
def opRxClr (b : Block) : OpEnd := .done (emptyResponse b)

/-- `RX.BYTE v` (R113): `LENGTH` when the buffer already holds 9 bytes; `RXLEN` never wraps. -/
def opRxByte (v : Byte) (b : Block) : OpEnd :=
  if 9 ≤ b.rxlen.toNat then .raised .length b else .done (pushByte v b)

/-- `DEC.WORD k` (R114): the checks in the order `RANGE`, `LENGTH`, `CRC_MISMATCH` (R144); `CRC` takes the computed
checksum on match and mismatch alike. -/
def opDecWord (k : Byte) (b : Block) : OpEnd :=
  if 2 < k.toNat then .raised .range b
  else if b.rxlen.toNat < 3 * k.toNat + 3 then .raised .length b
  else
    let started := { startWord k.toNat b with crc := groupCrc b k.toNat }
    if groupCrc b k.toNat = groupReceived b k.toNat then .done (storeWord k.toNat (groupWord b k.toNat) started)
    else .raised .crcMismatch started

/-- Checks the groups of a response from group `k` on, `n` of them, in wire order, and stops at the first that fails:
the last checksum computed (from `c`, if none is), and whether every group matched (R111, R115). -/
def scanGroups (b : Block) : Nat → Nat → Byte → Byte × Bool
  | 0, _, c => (c, true)
  | n + 1, k, _ =>
    if groupCrc b k = groupReceived b k then scanGroups b n (k + 1) (groupCrc b k) else (groupCrc b k, false)

/-- Stores the words of `n` groups from group `k` on (R115). -/
def storeGroups (src : Block) : Nat → Nat → Block → Block
  | 0, _, b => b
  | n + 1, k, b => storeGroups src n (k + 1) (storeWord k (groupWord src k) b)

/-- `DEC.ALL n` (R115): `n` is 1 or 3, the loaded length exactly `3n`, all groups or none. -/
def opDecAll (n : Byte) (b : Block) : OpEnd :=
  if n ≠ 1#8 ∧ n ≠ 3#8 then .raised .range b
  else if b.rxlen.toNat ≠ 3 * n.toNat then .raised .length b
  else
    let scan := scanGroups b n.toNat 0 b.crc
    let started := { startAll b with crc := scan.1 }
    if scan.2 then .done (storeGroups b n.toNat 0 started) else .raised .crcMismatch started

/-- The meaning of `RX.CLR` (R112). -/
def execRxClr (s : State) : Host.Outcome State Fault Refusal := .next (operate opRxClr s)

/-- The meaning of `RX.BYTE` (R113). -/
def execRxByte (v : Byte) (s : State) : Host.Outcome State Fault Refusal := .next (operate (opRxByte v) s)

/-- The meaning of `DEC.WORD` (R114). -/
def execDecWord (k : Byte) (s : State) : Host.Outcome State Fault Refusal := .next (operate (opDecWord k) s)

/-- The meaning of `DEC.ALL` (R115). -/
def execDecAll (n : Byte) (s : State) : Host.Outcome State Fault Refusal := .next (operate (opDecAll n) s)

end Sys2Proof.Machine
end

