-- ==== Sys2Proof/Machine/FramerTx.lean ====
section
/-! DEFINITION. The transmit framer's operations (spec/41_framer_tx.md R102 to R104). -/

namespace Sys2Proof.Machine

/-- `ENC.CMD v` (R102): any 16-bit opcode, not checked against the catalog (R71). -/
def opEncCmd (v : Word) (b : Block) : OpEnd := .done (putCommand v b)

/-- `ENC.ARG v` (R103): `SEQ` unless a 2-byte frame stands; leaves the argument's checksum in `CRC`. -/
def opEncArg (v : Word) (b : Block) : OpEnd :=
  if b.txlen = 2#3 then .done (putArgument v (crcOfWord v) { b with crc := crcOfWord v })
  else .raised .seq b

/-- `ENC.CAT i` (R104): `RANGE` above 16; publishes the row and builds its 2-byte frame. -/
def opEncCat (i : Byte) (b : Block) : OpEnd :=
  match catalogAt i with
  | none => .raised .range b
  | some row => .done (putCommand row.opcode (publishRow row b))

/-- The meaning of `ENC.CMD` (R102). -/
def execEncCmd (v : Word) (s : State) : Host.Outcome State Fault Refusal := .next (operate (opEncCmd v) s)

/-- The meaning of `ENC.ARG` (R103). -/
def execEncArg (v : Word) (s : State) : Host.Outcome State Fault Refusal := .next (operate (opEncArg v) s)

/-- The meaning of `ENC.CAT` (R104). -/
def execEncCat (i : Byte) (s : State) : Host.Outcome State Fault Refusal := .next (operate (opEncCat i) s)

end Sys2Proof.Machine
end

