-- ==== Sys2Proof/Machine/Transport.lean ====
section
/-! DEFINITION. The host's exchanges over the transport (spec/70_reset_and_hazards.md R170 to R174): encode, write, delay,
read, decode, in that order. The block's part of an exchange is its own operations, one access of the host after another,
and before each of them the reset event may reach the block (R160). The transport's outcomes come from the state
(`replies`) or are free. -/

namespace Sys2Proof.Machine

/-- How a part of a host call ends: with a value, with an error, or never, because a transport call does not return. -/
inductive Exchange (α : Type) where
  | ok (v : α) (s : State)
  | error (e : HostError) (s : State)
  | noReturn (s : State)
  deriving DecidableEq, Repr

/-- The first failing step ends the call (R173). -/
def andThen {α β : Type} (x : Exchange α) (f : α → State → Exchange β) : Exchange β :=
  match x with
  | .ok v s => f v s
  | .error e s => .error e s
  | .noReturn s => .noReturn s

/-- What the transport answers to its next call. -/
def nextReply (h : HostSide) : TransportReply :=
  match h.replies with
  | r :: _ => r
  | [] => Config.freeReply h.calls

/-- The transport call is made: recorded, and its outcome used up. -/
def recordCall (c : TransportCall) (s : State) : State :=
  { s with host := { s.host with
      wire := s.host.wire ++ [c], replies := s.host.replies.tail, calls := s.host.calls + 1 } }

/-- The host writes an operation to `CMD` inside an exchange. -/
def hostOperate (op : Block → OpEnd) (s : State) : State := operate op (accessPoint s)

/-- The host reads `STATUS` and goes on only with `ERR = OK` and the valid bits of what it is to trust: "trust a value only
together with its valid bit, and read STATUS after every operation whose failure matters" (R168); a failure is never
swallowed (R153). `CRC_MISMATCH` is `ChecksumError` (R142, R152); for any other failure R152 names no kind (log entry 21). -/
def checkStatus (valid : Block → Bool) (s : State) : Exchange Unit :=
  let s' := accessPoint s
  if s'.block.err = errorCode .crcMismatch then .error .checksum s'
  else if s'.block.err = 0#3 ∧ valid s'.block = true then .ok () s'
  else .error (Config.statusErrorKind (statusWord s'.block)) s'

/-- The host reads the `TXB` registers of a list, one after another. -/
def readTx : List Nat → State → List Byte × State
  | [], s => ([], s)
  | i :: rest, s =>
    let s' := accessPoint s
    let r := readTx rest s'
    (txAt s'.block i :: r.1, r.2)

/-- "read TXLEN, TXB0.." (R171 step 2): the bytes `TXB[0..TXLEN-1]`. -/
def readFrame (s : State) : List Byte × State :=
  let s' := accessPoint s
  readTx ([0, 1, 2, 3, 4].take s'.block.txlen.toNat) s'

/-- `write(address, bytes)` (R170); a failure is `IoWriteError` (R152). -/
def writeBytes (bytes : List Byte) (s : State) : Exchange Unit :=
  let s' := recordCall (.write Config.busAddr bytes) s
  match nextReply s.host with
  | .ok _ => .ok () s'
  | .error => .error .ioWrite s'
  | .noReturn => .noReturn s'

/-- Step 2 of R171 by itself: `write` of the frame in `TXB`. With `TXLEN = 0` it is a `write` of no bytes: DESIGN CHOICE,
log entry 23. -/
def writeFrame (s : State) : Exchange Unit := writeBytes (readFrame s).1 (readFrame s).2

/-- Step 2 of R171 inside a call: the frame in `TXB` is handed to the transport only where its encoding has not failed
(`SEQ` of `ENC.ARG`) and the catalog row it was built from is still selected, that is `CATV = 1` (R153, R168): DEDUCED, log
entry 21. -/
def sendFrame (s : State) : Exchange Unit :=
  andThen (checkStatus (·.catv) (readFrame s).2) fun _ s' => writeBytes (readFrame s).1 s'

/-- `sleep(ms)` (R170): returns no value and cannot fail. -/
def sleepFor (ms : Word32) (s : State) : State :=
  { s with host := { s.host with wire := s.host.wire ++ [.sleep ms] } }

/-- The delay after a command: "if `post_delay_ms > 0`, sleep" (R172, R173), the delay of the row the host encoded
(log entry 22). -/
def sleepDelay (c : WireCmd) (s : State) : State :=
  if (catalogRow c).delayMs = 0#32 then s else sleepFor (catalogRow c).delayMs s

/-- `read(address, length)` (R170): the length requested, or a failure, `IoReadError` (R152). -/
def readBytes (len : Nat) (s : State) : Exchange (List Byte) :=
  let s' := recordCall (.read Config.busAddr len) s
  match nextReply s.host with
  | .ok bytes => if bytes.length = len then .ok bytes s' else .error .ioRead s'
  | .error => .error .ioRead s'
  | .noReturn => .noReturn s'

/-- Step 1 of R171 for a command without argument: `ENC.CAT i`. -/
def encodeCommand (c : WireCmd) (s : State) : State := hostOperate (opEncCat (catalogIndex c)) s

/-- Step 1 of R171 for a command with argument: `ENC.CAT i; ENC.ARG v`. -/
def encodeWithArgument (c : WireCmd) (arg : Word) (s : State) : State :=
  hostOperate (opEncArg arg) (encodeCommand c s)

/-- `send_only` after the encoding (R173): write, then the delay. With the 5-byte frame of an argument it is one `write`
of all five bytes (R174). -/
def sendOnly (c : WireCmd) (s : State) : Exchange Unit :=
  andThen (sendFrame s) fun _ s' => .ok () (sleepDelay c s')

/-- The number of bytes of a command's response: `3 * response_word_count` (R173). -/
def responseLength (c : WireCmd) : Nat := 3 * (catalogRow c).respWords.toNat

/-- `send_and_read` after the encoding (R173): write, delay, then read exactly the response's bytes. -/
def sendAndRead (c : WireCmd) (s : State) : Exchange (List Byte) :=
  andThen (sendOnly c s) fun _ s' => readBytes (responseLength c) s'

/-- `RX.BYTE` for each byte in turn. -/
def loadBytes : List Byte → State → State
  | [], s => s
  | v :: rest, s => loadBytes rest (hostOperate (opRxByte v) s)

/-- Step 5 of R171: `RX.CLR`, then the bytes in the order they were read. -/
def loadResponse (bytes : List Byte) (s : State) : State := loadBytes bytes (hostOperate opRxClr s)

/-- The words of a command's response are valid: `WV[0]`, or all three. -/
def responseValid (c : WireCmd) (b : Block) : Bool :=
  if (catalogRow c).respWords = 3#2 then allWordsValid b else b.wv[0]

/-- Step 6 of R171: `DEC.ALL RESPW`, then the host reads `STATUS` ("a host must not read W when ERR != 0", R153). -/
def decodeResponse (c : WireCmd) (s : State) : Exchange Unit :=
  checkStatus (responseValid c) (hostOperate (opDecAll ((catalogRow c).respWords.setWidth 8)) s)

/-- An exchange with response: steps 1 to 6 of R171. -/
def exchangeWithResponse (c : WireCmd) (s : State) : Exchange Unit :=
  andThen (sendAndRead c (encodeCommand c s)) fun bytes s' => decodeResponse c (loadResponse bytes s')

end Sys2Proof.Machine
end

