-- ==== Sys2Proof/Machine/Session.lean ====
section
/-! DEFINITION. The host's calls (spec/70_reset_and_hazards.md R176 to R186): which call is valid in which mode of the sensor
under `STRICT_SESSION` (R163, R176 to R178, D29), what a call does, and how the host reads the words of a response. -/

namespace Sys2Proof.Machine

/-- Whether a call is valid in the mode the host knows (R176, R177). A stop is valid too while the stop-before-start after a
restart is still to come: in an unknown mode, and in the `Idle` that a `wakeup` made of it (R163). -/
def modeAllows (c : WireCmd) (h : HostSide) : Bool :=
  match c with
  | .wakeup => true
  | .startPeriodicMeasurement => h.mode == some .idle
  | .stopPeriodicMeasurement =>
    h.mode == some .periodicMeasuring || h.mode == none || (h.mode == some .idle && h.stopOwed)
  | .singleShotMeasurement => h.mode == some .idle
  | .readMeasurement => h.mode == some .periodicMeasuring || (h.mode == some .idle && h.shotDone)
  | .getDataReadyStatus => h.mode == some .periodicMeasuring
  | .getSerialNumber => Config.serialNumberAllowed h.mode
  | .reinit | .persistSettings | .setSensorAltitude | .getSensorAltitude | .setAmbientPressure | .getAmbientPressure
  | .setAscEnabled | .getAscEnabled | .setAscTarget | .getAscTarget => h.mode == some .idle

/-- Whether the host makes the call at all: always, unless `STRICT_SESSION` holds and the mode forbids it (D29). -/
def sessionAllows (c : WireCmd) (h : HostSide) : Bool := !Config.strictSession || modeAllows c h

/-- The host's knowledge of the mode, kept only under `STRICT_SESSION` (R178). -/
def noteMode (m : Option SensorMode) (shot owed : Bool) (s : State) : State :=
  if Config.strictSession then { s with host := { s.host with mode := m, shotDone := shot, stopOwed := owed } } else s

/-- A part of a call that leads to mode `m` when it succeeds (R176), and keeps or settles the stop-before-start of R163;
when it does not succeed, the host no longer knows the mode. -/
def leadingTo {α : Type} (m : SensorMode) (keepsOwed : Bool) (x : Exchange α) : Exchange α :=
  match x with
  | .ok v s => .ok v (noteMode (some m) false (keepsOwed && s.host.stopOwed) s)
  | .error e s => .error e (noteMode none false true s)
  | .noReturn s => .noReturn (noteMode none false true s)

/-- The call returns to its caller (R153). -/
def giveResult (r : HostResult) (s : State) : State := { s with host := { s.host with result := some r } }

/-- The call never returns (93 U6): it gives no result, and the host is stuck. -/
def hangHost (s : State) : State := { s with host := { s.host with result := none, hung := true } }

/-- A host call: refused with `InvalidStateError`, the transport untouched, where the session does not allow it (D29);
else its body, and the result of that. -/
def hostCall (c : WireCmd) (body : State → Exchange HostValue) (s : State) : State :=
  if sessionAllows c s.host then
    match body s with
    | .ok v s' => giveResult (.ok v) s'
    | .error e s' => giveResult (.error e) s'
    | .noReturn s' => hangHost s'
  else giveResult (.error .invalidState) s

/-- A command without argument or response (R173, R185). -/
def plainBody (c : WireCmd) (s : State) : Exchange HostValue :=
  andThen (sendOnly c (encodeCommand c s)) fun _ s' => .ok .done s'

/-- A command with argument (R174). -/
def argumentBody (c : WireCmd) (arg : Word) (s : State) : Exchange HostValue :=
  andThen (sendOnly c (encodeWithArgument c arg s)) fun _ s' => .ok .done s'

/-- The values the host reads with `view`, trusted only together with their valid bits, which `STATUS` shows after them
(R153, R168): DEDUCED, log entry 21. -/
def trusted (valid : Block → Bool) (view : State → HostValue × State) (s : State) : Exchange HostValue :=
  andThen (checkStatus valid (view s).2) fun _ s' => .ok (view s).1 s'

/-- A command with response, whose words the host then reads with `view` (R171 step 7), trusted with the bits `valid`. -/
def responseBody (c : WireCmd) (valid : Block → Bool) (view : State → HostValue × State) (s : State) : Exchange HostValue :=
  andThen (exchangeWithResponse c s) fun _ s' => trusted valid view s'

/-- A command whose words the host reads and interprets itself. -/
def wordsBody (c : WireCmd) (view : State → HostValue × State) (s : State) : Exchange HostValue :=
  responseBody c (responseValid c) view s

/-- `read W0` (R171 step 7), and what the host makes of the word. -/
def oneWordView (f : Word → HostValue) (s : State) : HostValue × State :=
  let s0 := accessPoint s
  (f s0.block.w[0], s0)

/-- The one word, unscaled (R183). -/
def wordValue (w : Word) : HostValue := .word w

/-- `is_ready = ((W[0] & 0x07FF) != 0)` (R180). -/
def readyValue (w : Word) : HostValue := .ready (w &&& 0x07FF#16 != 0#16)

/-- `pressure_pa = W[0] * 100` (R184). -/
def pressureValue (w : Word) : HostValue := .pascals (w.toNat * 100)

/-- `(W[0] << 32) | (W[1] << 16) | W[2]` (R182). -/
def serialValue (w0 w1 w2 : Word) : HostValue :=
  .serial (w0.setWidth 48 <<< 32 ||| w1.setWidth 48 <<< 16 ||| w2.setWidth 48)

/-- `read W0, W1, W2`, and the serial number (R171 step 7, R182). -/
def serialView (s : State) : HostValue × State :=
  let s0 := accessPoint s
  let s1 := accessPoint s0
  let s2 := accessPoint s1
  (serialValue s0.block.w[0] s1.block.w[1] s2.block.w[2], s2)

/-- `CVT.MEAS` and `read CO2, TEMP, RH`: the Measurement (R171 step 7, R181). -/
def measurementView (s : State) : HostValue × State :=
  let s0 := accessPoint (hostOperate opCvtMeas s)
  let s1 := accessPoint s0
  let s2 := accessPoint s1
  (.measurement s0.block.co2 s1.block.temp s2.block.rh, s2)

/-- The exchange of `read_measurement` and its conversion (R181): the results are meaningful only while `MV = 1` (R19 to
R21), and a `CVT.MEAS` that ended in `SEQ` shows in `ERR`. -/
def measurementBody (s : State) : Exchange HostValue := responseBody .readMeasurement (·.mv) measurementView s

/-- A failure of the wake-up inside a single shot is `WakeupError`, whatever its root cause (R152, R179). -/
def asWakeupError {α : Type} (x : Exchange α) : Exchange α :=
  match x with
  | .error _ s => .error .wakeup s
  | .ok v s => .ok v s
  | .noReturn s => .noReturn s

/-- The single-shot sequence (R179): trigger, wakeup, read, in that order. -/
def singleShotBody (s : State) : Exchange HostValue :=
  andThen (leadingTo .singleShotPending true (sendOnly .singleShotMeasurement (encodeCommand .singleShotMeasurement s)))
    fun _ s1 => andThen (asWakeupError (sendOnly .wakeup (encodeCommand .wakeup s1)))
      fun _ s2 => measurementBody (noteMode (some .idle) true s2.host.stopOwed s2)

end Sys2Proof.Machine
end

