-- ==== Sys2Proof/Machine/WireCommands.lean ====
section
/-! DEFINITION. The meanings of the seventeen wire commands (spec/41_framer_tx.md R105): each is the host's call over the
block and the transport, by the rule the table names for the host (spec/70_reset_and_hazards.md R176 to R185). The four
commands with argument compute the CRC byte of their frame with `ENC.ARG` (R103), the only way to a 5-byte frame; in a
well-formed instruction it is the byte the instruction carries, in another one the carried byte is not used (log entry 11). -/

namespace Sys2Proof.Machine

/-- `reinit` (R185). -/
def execReinit (s : State) : Host.Outcome State Fault Refusal := .next (hostCall .reinit (plainBody .reinit) s)

/-- `wakeup` (R176: from any mode to `Idle`). -/
def execWakeup (s : State) : Host.Outcome State Fault Refusal :=
  .next (hostCall .wakeup (fun t => leadingTo .idle true (plainBody .wakeup t)) s)

/-- `get_serial_number` (R182). -/
def execGetSerialNumber (s : State) : Host.Outcome State Fault Refusal :=
  .next (hostCall .getSerialNumber (wordsBody .getSerialNumber serialView) s)

/-- `read_measurement` (R181). -/
def execReadMeasurement (s : State) : Host.Outcome State Fault Refusal :=
  .next (hostCall .readMeasurement measurementBody s)

/-- `start_periodic_measurement` (R176: from `Idle` to `PeriodicMeasuring`). -/
def execStartPeriodicMeasurement (s : State) : Host.Outcome State Fault Refusal :=
  .next (hostCall .startPeriodicMeasurement
    (fun t => leadingTo .periodicMeasuring false (plainBody .startPeriodicMeasurement t)) s)

/-- `stop_periodic_measurement` (R176: from `PeriodicMeasuring` to `Idle`). -/
def execStopPeriodicMeasurement (s : State) : Host.Outcome State Fault Refusal :=
  .next (hostCall .stopPeriodicMeasurement (fun t => leadingTo .idle false (plainBody .stopPeriodicMeasurement t)) s)

/-- `get_data_ready_status` (R180). -/
def execGetDataReadyStatus (s : State) : Host.Outcome State Fault Refusal :=
  .next (hostCall .getDataReadyStatus (wordsBody .getDataReadyStatus (oneWordView readyValue)) s)

/-- `single_shot_measurement` (R179). -/
def execSingleShotMeasurement (s : State) : Host.Outcome State Fault Refusal :=
  .next (hostCall .singleShotMeasurement singleShotBody s)

/-- `set_sensor_altitude` (R174, R183). -/
def execSetSensorAltitude (arg : Word) (s : State) : Host.Outcome State Fault Refusal :=
  .next (hostCall .setSensorAltitude (argumentBody .setSensorAltitude arg) s)

/-- `get_sensor_altitude` (R183). -/
def execGetSensorAltitude (s : State) : Host.Outcome State Fault Refusal :=
  .next (hostCall .getSensorAltitude (wordsBody .getSensorAltitude (oneWordView wordValue)) s)

/-- `set_ambient_pressure` (R174, R184): the argument is in hectopascal, as on the wire. -/
def execSetAmbientPressure (arg : Word) (s : State) : Host.Outcome State Fault Refusal :=
  .next (hostCall .setAmbientPressure (argumentBody .setAmbientPressure arg) s)

/-- `get_ambient_pressure` (R184). -/
def execGetAmbientPressure (s : State) : Host.Outcome State Fault Refusal :=
  .next (hostCall .getAmbientPressure (wordsBody .getAmbientPressure (oneWordView pressureValue)) s)

/-- `persist_settings` (R185). -/
def execPersistSettings (s : State) : Host.Outcome State Fault Refusal :=
  .next (hostCall .persistSettings (plainBody .persistSettings) s)

/-- `set_asc_enabled` (R174, R183). -/
def execSetAscEnabled (arg : Word) (s : State) : Host.Outcome State Fault Refusal :=
  .next (hostCall .setAscEnabled (argumentBody .setAscEnabled arg) s)

/-- `get_asc_enabled` (R183). -/
def execGetAscEnabled (s : State) : Host.Outcome State Fault Refusal :=
  .next (hostCall .getAscEnabled (wordsBody .getAscEnabled (oneWordView wordValue)) s)

/-- `set_asc_target` (R174, R183). -/
def execSetAscTarget (arg : Word) (s : State) : Host.Outcome State Fault Refusal :=
  .next (hostCall .setAscTarget (argumentBody .setAscTarget arg) s)

/-- `get_asc_target` (R183). -/
def execGetAscTarget (s : State) : Host.Outcome State Fault Refusal :=
  .next (hostCall .getAscTarget (wordsBody .getAscTarget (oneWordView wordValue)) s)

end Sys2Proof.Machine
end

