-- ==== Sys2Proof/Machine/Dispatch.lean ====
section
/-! DEFINITION. Which meaning each instruction has. -/

namespace Sys2Proof.Machine

/-- One instruction, performed. -/
def exec (i : Instr) (s : State) : Host.Outcome State Fault Refusal :=
  match i with
  | .nop => Sys2Proof.Machine.execNop s
  | .clr => Sys2Proof.Machine.execClr s
  | .crcInit => Sys2Proof.Machine.execCrcInit s
  | .crcByte b => Sys2Proof.Machine.execCrcByte b s
  | .crcWord w => Sys2Proof.Machine.execCrcWord w s
  | .encCmd opcode => Sys2Proof.Machine.execEncCmd opcode s
  | .encArg value => Sys2Proof.Machine.execEncArg value s
  | .encCat index => Sys2Proof.Machine.execEncCat index s
  | .rxClr => Sys2Proof.Machine.execRxClr s
  | .rxByte b => Sys2Proof.Machine.execRxByte b s
  | .decWord k => Sys2Proof.Machine.execDecWord k s
  | .decAll n => Sys2Proof.Machine.execDecAll n s
  | .cvtMeas => Sys2Proof.Machine.execCvtMeas s
  | .reinit => Sys2Proof.Machine.execReinit s
  | .wakeup => Sys2Proof.Machine.execWakeup s
  | .getSerialNumber => Sys2Proof.Machine.execGetSerialNumber s
  | .readMeasurement => Sys2Proof.Machine.execReadMeasurement s
  | .startPeriodicMeasurement => Sys2Proof.Machine.execStartPeriodicMeasurement s
  | .stopPeriodicMeasurement => Sys2Proof.Machine.execStopPeriodicMeasurement s
  | .getDataReadyStatus => Sys2Proof.Machine.execGetDataReadyStatus s
  | .singleShotMeasurement => Sys2Proof.Machine.execSingleShotMeasurement s
  | .setSensorAltitude arg _ => Sys2Proof.Machine.execSetSensorAltitude arg s
  | .getSensorAltitude => Sys2Proof.Machine.execGetSensorAltitude s
  | .setAmbientPressure arg _ => Sys2Proof.Machine.execSetAmbientPressure arg s
  | .getAmbientPressure => Sys2Proof.Machine.execGetAmbientPressure s
  | .persistSettings => Sys2Proof.Machine.execPersistSettings s
  | .setAscEnabled arg _ => Sys2Proof.Machine.execSetAscEnabled arg s
  | .getAscEnabled => Sys2Proof.Machine.execGetAscEnabled s
  | .setAscTarget arg _ => Sys2Proof.Machine.execSetAscTarget arg s
  | .getAscTarget => Sys2Proof.Machine.execGetAscTarget s

end Sys2Proof.Machine
end

