-- ==== Sys2Proof/Machine/Access.lean ====
section
/-! DEFINITION. What the host's accesses and calls do: the register map (spec/10_state.md R11, R13, R32, R33), the wire
commands by their frames (spec/30_encoding.md R70), the parts of an exchange taken one by one (R171), one step with the reset
event (R160), and the pseudo-operations (R74). -/

namespace Sys2Proof.Machine

/-- The value a `RegRead(n)` returns, each zero-extended to 32 bits (R11), or why the read has no meaning (R33). -/
def regValue (n : RegNum) (b : Block) : Except Refusal Word32 :=
  match n.toNat with
  | 0x00 => .error .readOfCmd
  | 0x01 => .ok (statusWord b)
  | 0x02 => .ok (b.crc.setWidth 32)
  | 0x03 => .ok (b.txlen.setWidth 32)
  | 0x04 => .ok (b.rxlen.setWidth 32)
  | 0x05 => .ok (b.catop.setWidth 32)
  | 0x06 => .ok (catInfoWord b)
  | 0x07 => .ok b.catdly
  | 0x08 => .ok (b.txb[0].setWidth 32)
  | 0x09 => .ok (b.txb[1].setWidth 32)
  | 0x0A => .ok (b.txb[2].setWidth 32)
  | 0x0B => .ok (b.txb[3].setWidth 32)
  | 0x0C => .ok (b.txb[4].setWidth 32)
  | 0x10 => .ok (b.w[0].setWidth 32)
  | 0x11 => .ok (b.w[1].setWidth 32)
  | 0x12 => .ok (b.w[2].setWidth 32)
  | 0x14 => .ok (b.co2.setWidth 32)
  | 0x15 => .ok b.temp
  | 0x16 => .ok b.rh
  | _ => .error (.reservedRegister n)

/-- `RegRead(n)`: the block is untouched (R32); the host holds the value. -/
def performRead (n : RegNum) (s : State) : Host.Outcome State Fault Refusal :=
  match regValue n s.block with
  | .ok v => .next { s with host := { s.host with readData := some v } }
  | .error r => .refused r

/-- A write of the operation word `v` to `CMD` (R13): the instruction it decodes to, or `ILLEGAL_OP` (R63, R138). -/
def performWord (v : Word32) (s : State) : Host.Outcome State Fault Refusal :=
  match decodeWord v with
  | .ok i => exec i s
  | .error _ => .next (operate opIllegal s)

/-- Why a write to a register other than `CMD` has no meaning (R33): the register is read-only, or reserved. -/
def writeRefusal (n : RegNum) (b : Block) : Refusal :=
  match regValue n b with
  | .ok _ => .writeToReadOnly n
  | .error _ => .reservedRegister n

/-- `RegWrite(n, v)`: only `CMD` accepts a write (R11, R33). -/
def performWrite (n : RegNum) (v : Word32) (s : State) : Host.Outcome State Fault Refusal :=
  if n = 0#6 then performWord v s else .refused (writeRefusal n s.block)

/-- The host performs the wire command of a frame (R70, R171). -/
def performFrame (bytes : List Byte) (s : State) : Host.Outcome State Fault Refusal :=
  match decodeFrame bytes with
  | .ok i => exec i s
  | .error e => .refused (.notACommandFrame e)

/-- The wire command of a call whose argument the host codes (`PA_TO_HPA`, `ASC_CODING`: R183, R184). -/
def apiInstr : ApiCall → Instr
  | .setAmbientPressure p => .setAmbientPressure (Config.paToHpa p) (crcOfWord (Config.paToHpa p))
  | .setAscEnabled v => .setAscEnabled (Config.ascEnabledCoding v) (crcOfWord (Config.ascEnabledCoding v))
  | .setAscTarget v => .setAscTarget (Config.ascTargetCoding v) (crcOfWord (Config.ascTargetCoding v))

/-- The end of a part of an exchange that the host takes by itself. -/
def endPart (x : Exchange Unit) : Host.Outcome State Fault Refusal :=
  match x with
  | .ok _ s => .next (giveResult (.ok .done) s)
  | .error e s => .next (giveResult (.error e) s)
  | .noReturn s => .next (hangHost s)

/-- Steps 4 and 5 of R171 by themselves. DESIGN CHOICE (log entry 23): any length may be asked for; where there are more
than nine bytes, `RX.BYTE` raised `LENGTH` for the last of them (R113), and the `STATUS` read after the loading shows it
(R153, R168). -/
def receiveBytes (len : Nat) (s : State) : Exchange Unit :=
  andThen (readBytes len s) fun bytes s' => checkStatus (fun _ => true) (loadResponse bytes s')

/-- One host action. -/
def perform (a : HostAction) (s : State) : Host.Outcome State Fault Refusal :=
  match a with
  | .regRead n => performRead n s
  | .regWrite n v => performWrite n v s
  | .command bytes => performFrame bytes s
  | .api call => exec (apiInstr call) s
  | .send => endPart (writeFrame s)
  | .sleep ms => .next (sleepFor ms s)
  | .receive len => endPart (receiveBytes len s)
  | .otherHost => .refused .secondHost

/-- The host's part of a step: a host stuck in a transport call takes no action, and one with nothing to do takes none, so
the block waits (93 U6, R12); else the oldest pending action is taken (R50). DESIGN CHOICE (log entry 25): an access by a
second host stands in that same list, so it is refused (R52) only when its turn comes, and not while the first host is
stuck or inside a call. -/
def hostTurn (s : State) : Host.Outcome State Fault Refusal :=
  if s.host.hung then .next s
  else
    match s.host.pending with
    | [] => .next s
    | a :: rest => perform a { s with host := { s.host with pending := rest } }

/-- One step of the whole machine: the reset event where it is due, whatever the host is at (R160); else the host's turn. -/
def hostStep (s : State) : Host.Outcome State Fault Refusal :=
  if resetDue s.host then .next (accessPoint s) else hostTurn (accessPoint s)

/-- The host action that hands the machine an encoded instruction. -/
def fetchAction : Encoded → HostAction
  | .opw v => .regWrite 0#6 v
  | .frame bytes => .command bytes

/-- The host is free to act, no reset event is due before its next action, and that action is this one. -/
def pushAction (a : HostAction) (s : State) : State :=
  { s with host := { s.host with pending := a :: s.host.pending, hung := false, resets := false :: s.host.resets } }

/-- `CRC.SPAN b0, ..., b(n-1)` (R74). -/
def crcSpan (bytes : List Byte) : List Instr := .crcInit :: bytes.map .crcByte

/-- `SENDA name, v` (R74). -/
def sendA (c : WireCmd) (v : Word) : List Instr := [.encCat (catalogIndex c), .encArg v]

/-- `RX.LOAD b0, ..., b(n-1)` (R74). -/
def rxLoad (bytes : List Byte) : List Instr := .rxClr :: bytes.map .rxByte

/-- `READ.MEAS b0, ..., b8` (R74). -/
def readMeas (bytes : List Byte) : List Instr := rxLoad bytes ++ [.decAll 3#8, .cvtMeas]

/-- Instructions one after another, as a pseudo-operation expands to them; stops at the first that gives no next state. -/
def execAll : List Instr → State → Host.Outcome State Fault Refusal
  | [], s => .next s
  | i :: rest, s =>
    match exec i s with
    | .next s' => execAll rest s'
    | .fault r => .fault r
    | .refused r => .refused r

end Sys2Proof.Machine
end

