-- ==== Sys2Proof/Machine/Step.lean ====
section
/-! DEFINITION. The step, and how an instruction is handed to the machine: the block fetches nothing (spec/10_state.md R12),
so an instruction runs because the host writes it to `CMD`, or performs the wire command of its frame. -/

namespace Sys2Proof.Machine

/-- One step: one host action (R50). -/
def step : State → Host.Outcome State Fault Refusal := hostStep

/-- The state whose next host action is the instruction with these bits, numbered as spec/opcode_table.json numbers them:
a write of a 32-bit word to `CMD`, or the wire command of a 2 or 5 byte frame. -/
def State.withFetchWord (s : State) (nbits w : Nat) : State := pushAction (fetchAction (tableWord nbits w)) s

end Sys2Proof.Machine
end

