-- ==== Sys2Proof/Safety.lean ====
section
/-! DEFINITION. What claims are stated with: the spec's own tables (operation map, register map, catalog, CRC table), the
invariants of spec/10_state.md R28, the reset values of R29, what an illegal word does, the effect of `ENC.CAT` on the block,
the order of an exchange, and the exact value of a binary32 pattern. -/

namespace Sys2Proof

open Sys2Proof.Machine

/-- `match` and `mask` of the thirteen rows of the operation map (spec/30_encoding.md R64). -/
def operationMap : List (Word32 × Word32) :=
  [(0x00000000#32, 0xFFFFFFFF#32), (0x01000000#32, 0xFFFFFFFF#32), (0x10000000#32, 0xFFFFFFFF#32),
   (0x11000000#32, 0xFFFFFF00#32), (0x12000000#32, 0xFFFF0000#32), (0x20000000#32, 0xFFFF0000#32),
   (0x21000000#32, 0xFFFF0000#32), (0x22000000#32, 0xFF00FFFF#32), (0x30000000#32, 0xFFFFFFFF#32),
   (0x31000000#32, 0xFFFFFF00#32), (0x32000000#32, 0xFF00FFFF#32), (0x33000000#32, 0xFF00FFFF#32),
   (0x40000000#32, 0xFFFFFFFF#32)]

/-- The readable registers and the value each reads as (spec/10_state.md R11). -/
def registerMap (b : Block) : List (RegNum × Word32) :=
  [(0x01#6, statusWord b), (0x02#6, b.crc.setWidth 32), (0x03#6, b.txlen.setWidth 32),
   (0x04#6, b.rxlen.setWidth 32), (0x05#6, b.catop.setWidth 32), (0x06#6, catInfoWord b), (0x07#6, b.catdly),
   (0x08#6, b.txb[0].setWidth 32), (0x09#6, b.txb[1].setWidth 32), (0x0A#6, b.txb[2].setWidth 32),
   (0x0B#6, b.txb[3].setWidth 32), (0x0C#6, b.txb[4].setWidth 32), (0x10#6, b.w[0].setWidth 32),
   (0x11#6, b.w[1].setWidth 32), (0x12#6, b.w[2].setWidth 32), (0x14#6, b.co2.setWidth 32), (0x15#6, b.temp),
   (0x16#6, b.rh)]

/-- The reserved register numbers (spec/10_state.md R33). -/
def reservedNumber (n : RegNum) : Bool :=
  (0x0D ≤ n.toNat && n.toNat ≤ 0x0F) || n.toNat == 0x13 || 0x17 ≤ n.toNat

/-- The catalog by index (spec/41_framer_tx.md R105). -/
def catalogTable : List (Byte × CatRow) :=
  [(0#8, ⟨0x3646#16, 0#2, false, 30#32⟩), (1#8, ⟨0x36F6#16, 0#2, false, 30#32⟩),
   (2#8, ⟨0x3682#16, 3#2, false, 1#32⟩), (3#8, ⟨0xEC05#16, 3#2, false, 1#32⟩),
   (4#8, ⟨0x21B1#16, 0#2, false, 5#32⟩), (5#8, ⟨0x3F86#16, 0#2, false, 500#32⟩),
   (6#8, ⟨0xE4B8#16, 1#2, false, 1#32⟩), (7#8, ⟨0x219D#16, 0#2, false, 5000#32⟩),
   (8#8, ⟨0x2427#16, 0#2, true, 1#32⟩), (9#8, ⟨0x2322#16, 1#2, false, 1#32⟩),
   (10#8, ⟨0xE000#16, 0#2, true, 1#32⟩), (11#8, ⟨0xE000#16, 1#2, false, 1#32⟩),
   (12#8, ⟨0x3615#16, 0#2, false, 800#32⟩), (13#8, ⟨0x2416#16, 0#2, true, 1#32⟩),
   (14#8, ⟨0x2313#16, 1#2, false, 1#32⟩), (15#8, ⟨0x243A#16, 0#2, true, 1#32⟩),
   (16#8, ⟨0x233F#16, 1#2, false, 1#32⟩)]

/-- The table `T` of spec/95_test_vectors.md section 2.1. -/
def crcTable : List Byte :=
  [0x00, 0x31, 0x62, 0x53, 0xC4, 0xF5, 0xA6, 0x97, 0xB9, 0x88, 0xDB, 0xEA, 0x7D, 0x4C, 0x1F, 0x2E] ++
  [0x43, 0x72, 0x21, 0x10, 0x87, 0xB6, 0xE5, 0xD4, 0xFA, 0xCB, 0x98, 0xA9, 0x3E, 0x0F, 0x5C, 0x6D] ++
  [0x86, 0xB7, 0xE4, 0xD5, 0x42, 0x73, 0x20, 0x11, 0x3F, 0x0E, 0x5D, 0x6C, 0xFB, 0xCA, 0x99, 0xA8] ++
  [0xC5, 0xF4, 0xA7, 0x96, 0x01, 0x30, 0x63, 0x52, 0x7C, 0x4D, 0x1E, 0x2F, 0xB8, 0x89, 0xDA, 0xEB] ++
  [0x3D, 0x0C, 0x5F, 0x6E, 0xF9, 0xC8, 0x9B, 0xAA, 0x84, 0xB5, 0xE6, 0xD7, 0x40, 0x71, 0x22, 0x13] ++
  [0x7E, 0x4F, 0x1C, 0x2D, 0xBA, 0x8B, 0xD8, 0xE9, 0xC7, 0xF6, 0xA5, 0x94, 0x03, 0x32, 0x61, 0x50] ++
  [0xBB, 0x8A, 0xD9, 0xE8, 0x7F, 0x4E, 0x1D, 0x2C, 0x02, 0x33, 0x60, 0x51, 0xC6, 0xF7, 0xA4, 0x95] ++
  [0xF8, 0xC9, 0x9A, 0xAB, 0x3C, 0x0D, 0x5E, 0x6F, 0x41, 0x70, 0x23, 0x12, 0x85, 0xB4, 0xE7, 0xD6] ++
  [0x7A, 0x4B, 0x18, 0x29, 0xBE, 0x8F, 0xDC, 0xED, 0xC3, 0xF2, 0xA1, 0x90, 0x07, 0x36, 0x65, 0x54] ++
  [0x39, 0x08, 0x5B, 0x6A, 0xFD, 0xCC, 0x9F, 0xAE, 0x80, 0xB1, 0xE2, 0xD3, 0x44, 0x75, 0x26, 0x17] ++
  [0xFC, 0xCD, 0x9E, 0xAF, 0x38, 0x09, 0x5A, 0x6B, 0x45, 0x74, 0x27, 0x16, 0x81, 0xB0, 0xE3, 0xD2] ++
  [0xBF, 0x8E, 0xDD, 0xEC, 0x7B, 0x4A, 0x19, 0x28, 0x06, 0x37, 0x64, 0x55, 0xC2, 0xF3, 0xA0, 0x91] ++
  [0x47, 0x76, 0x25, 0x14, 0x83, 0xB2, 0xE1, 0xD0, 0xFE, 0xCF, 0x9C, 0xAD, 0x3A, 0x0B, 0x58, 0x69] ++
  [0x04, 0x35, 0x66, 0x57, 0xC0, 0xF1, 0xA2, 0x93, 0xBD, 0x8C, 0xDF, 0xEE, 0x79, 0x48, 0x1B, 0x2A] ++
  [0xC1, 0xF0, 0xA3, 0x92, 0x05, 0x34, 0x67, 0x56, 0x78, 0x49, 0x1A, 0x2B, 0xBC, 0x8D, 0xDE, 0xEF] ++
  [0x82, 0xB3, 0xE0, 0xD1, 0x46, 0x77, 0x24, 0x15, 0x3B, 0x0A, 0x59, 0x68, 0xFF, 0xCE, 0x9D, 0xAC]

/-- Whether the instruction is one of the thirteen operations of R64. -/
def isOperation : Instr → Bool
  | .nop | .clr | .crcInit | .crcByte _ | .crcWord _ | .encCmd _ | .encArg _ | .encCat _ | .rxClr | .rxByte _
  | .decWord _ | .decAll _ | .cvtMeas => true
  | .reinit | .wakeup | .getSerialNumber | .readMeasurement | .startPeriodicMeasurement | .stopPeriodicMeasurement
  | .getDataReadyStatus | .singleShotMeasurement | .setSensorAltitude _ _ | .getSensorAltitude
  | .setAmbientPressure _ _ | .getAmbientPressure | .persistSettings | .setAscEnabled _ _ | .getAscEnabled
  | .setAscTarget _ _ | .getAscTarget => false

/-- The catalog command of a wire instruction. -/
def wireOf : Instr → Option WireCmd
  | .nop | .clr | .crcInit | .crcByte _ | .crcWord _ | .encCmd _ | .encArg _ | .encCat _ | .rxClr | .rxByte _
  | .decWord _ | .decAll _ | .cvtMeas => none
  | .reinit => some .reinit
  | .wakeup => some .wakeup
  | .getSerialNumber => some .getSerialNumber
  | .readMeasurement => some .readMeasurement
  | .startPeriodicMeasurement => some .startPeriodicMeasurement
  | .stopPeriodicMeasurement => some .stopPeriodicMeasurement
  | .getDataReadyStatus => some .getDataReadyStatus
  | .singleShotMeasurement => some .singleShotMeasurement
  | .setSensorAltitude _ _ => some .setSensorAltitude
  | .getSensorAltitude => some .getSensorAltitude
  | .setAmbientPressure _ _ => some .setAmbientPressure
  | .getAmbientPressure => some .getAmbientPressure
  | .persistSettings => some .persistSettings
  | .setAscEnabled _ _ => some .setAscEnabled
  | .getAscEnabled => some .getAscEnabled
  | .setAscTarget _ _ => some .setAscTarget
  | .getAscTarget => some .getAscTarget

/-- `ERR` and `STICKY` as a raised error leaves them, and nothing else changed (R137, R141). -/
def withError (code : BitVec 3) (s : State) : State := { s with block := { s.block with err := code, sticky := true } }

/-- Writing the word to `CMD` raises `ILLEGAL_OP` and changes nothing else (R138). -/
def IllegalWord (v : Word32) : Prop := ∀ s : State, performWord v s = .next (withError 5#3 s)

/-- Every register of the block at the value R29 gives, and the two views R29 names. -/
def AtResetValues (b : Block) : Prop :=
  b.crc = 0xFF#8 ∧ (∀ i : Fin 5, b.txb[i] = 0#8) ∧ b.txlen = 0#3 ∧ (∀ i : Fin 9, b.rxb[i] = 0#8) ∧ b.rxlen = 0#4 ∧
  (∀ i : Fin 3, b.w[i] = 0#16) ∧ (∀ i : Fin 3, b.wv[i] = false) ∧ b.co2 = 0#16 ∧ b.temp = 0#32 ∧ b.rh = 0#32 ∧
  b.mv = false ∧ b.catop = 0#16 ∧ b.respw = 0#2 ∧ b.hasarg = false ∧ b.catdly = 0#32 ∧ b.catv = false ∧
  b.err = 0#3 ∧ b.sticky = false ∧ statusWord b = 0#32 ∧ b.crc.setWidth 32 = 0x000000FF#32

/-- The block after `ENC.CAT` of a command's index (R104, R105). -/
def selected (c : WireCmd) (b : Block) : Block :=
  { b with
    txb := #v[msbOf (catalogRow c).opcode, lsbOf (catalogRow c).opcode, 0#8, 0#8, 0#8]
    txlen := 2#3
    catop := (catalogRow c).opcode
    respw := (catalogRow c).respWords
    hasarg := (catalogRow c).hasArg
    catdly := (catalogRow c).delayMs
    catv := true
    err := 0#3 }

/-- The host call that `STRICT_SESSION` turns away: only its result (D29). -/
def turnedAway (s : State) : State := { s with host := { s.host with result := some (.error .invalidState) } }

/-- The mode the host knows after a command that leads to `m` (R176; kept only under `STRICT_SESSION`). -/
def modeAfter (m : SensorMode) (h : HostSide) : Option SensorMode :=
  if Config.strictSession then some m else h.mode

/-- A `read` of `len` bytes that gives none, and how the call then ends: a failure or another length than asked for is
`IoReadError`, the host no more stuck than before (R152); one that never returns gives no result and leaves the host
stuck (93 U6). -/
def FailedRead (r : TransportReply) (len : Nat) (hungBefore : Bool) (result : Option HostResult) (hung : Bool) : Prop :=
  ((r = .error ∨ ∃ bytes, r = .ok bytes ∧ bytes.length ≠ len) ∧ result = some (.error .ioRead) ∧ hung = hungBefore) ∨
  (r = .noReturn ∧ result = none ∧ hung = true)

/-- The word of group `k` of a response as it was read from the transport (R45). -/
def responseWord (bytes : List Byte) (k : Nat) : Word := joinBytes (bytes.getD (3 * k) 0#8) (bytes.getD (3 * k + 1) 0#8)

/-- Group `k` of a response ends in the checksum of its two data bytes (R111). -/
def groupMatches (bytes : List Byte) (k : Nat) : Prop :=
  crc8 [bytes.getD (3 * k) 0#8, bytes.getD (3 * k + 1) 0#8] = bytes.getD (3 * k + 2) 0#8

/-- What a successful call of a command returns, from the words of its response (R173, R180 to R184; for the two ASC getters,
whose coding R183 leaves open, the word as it was read: DESIGN CHOICE, log entry 15). -/
def answerOf (c : WireCmd) (w0 w1 w2 : Word) : HostValue :=
  match c with
  | .getSensorAltitude | .getAscEnabled | .getAscTarget => .word w0
  | .getAmbientPressure => .pascals (w0.toNat * 100)
  | .getDataReadyStatus => .ready (w0 &&& 0x07FF#16 != 0#16)
  | .getSerialNumber => .serial (w0.setWidth 48 <<< 32 ||| w1.setWidth 48 <<< 16 ||| w2.setWidth 48)
  | .readMeasurement | .singleShotMeasurement => .measurement w0 (tempF32 w1) (rhF32 w2)
  | .reinit | .wakeup | .startPeriodicMeasurement | .stopPeriodicMeasurement | .setSensorAltitude | .setAmbientPressure
  | .persistSettings | .setAscEnabled | .setAscTarget => .done

/-- The block after a reset and then an operation that ended in this error. -/
def resetThenError (code : BitVec 3) : Block := { State.reset.block with err := code, sticky := true }

/-- The transport calls of a whole single shot, in order (R179). -/
def singleShotCalls : List TransportCall :=
  [.write Config.busAddr [0x21#8, 0x9D#8], .sleep 5000#32, .write Config.busAddr [0x36#8, 0xF6#8], .sleep 30#32,
   .write Config.busAddr [0xEC#8, 0x05#8], .sleep 1#32, .read Config.busAddr 9]

/-- `write` precedes the delay, and the delay the read, in every exchange; only a last exchange may stop early (R171). -/
def exchangeOrdered : List TransportCall → Bool
  | [] => true
  | [.write _ _] => true
  | .write _ _ :: .sleep _ :: .read _ _ :: rest => exchangeOrdered rest
  | .write _ _ :: .sleep _ :: rest => exchangeOrdered rest
  | _ => false

/-- R28 clause 1: `TXLEN` is 0, 2 or 5, and the bytes of `TXB` beyond it are zero; byte 4 of a 5-byte frame is the
checksum of bytes 2 and 3. -/
def TxInv (b : Block) : Prop :=
  (b.txlen = 0#3 ∧ ∀ i : Fin 5, b.txb[i] = 0#8) ∨
  (b.txlen = 2#3 ∧ b.txb[2] = 0#8 ∧ b.txb[3] = 0#8 ∧ b.txb[4] = 0#8) ∨
  (b.txlen = 5#3 ∧ b.txb[4] = crc8 [b.txb[2], b.txb[3]])

/-- R28 clause 2: `RXLEN <= 9`, and the bytes of `RXB` from `RXLEN` on are zero. -/
def RxInv (b : Block) : Prop :=
  b.rxlen.toNat ≤ 9 ∧ ∀ i : Fin 9, b.rxlen.toNat ≤ i.val → b.rxb[i] = 0#8

/-- R28 clause 4: a valid measurement is the conversion of the three valid words. -/
def MeasInv (b : Block) : Prop :=
  b.mv = true → allWordsValid b = true ∧ b.co2 = b.w[0] ∧ b.temp = tempF32 b.w[1] ∧ b.rh = rhF32 b.w[2]

/-- R28 clause 5: the catalog registers are zero, or hold a row of the catalog. -/
def CatInv (b : Block) : Prop :=
  (b.catv = false ∧ b.catop = 0#16 ∧ b.respw = 0#2 ∧ b.hasarg = false ∧ b.catdly = 0#32) ∨
  (b.catv = true ∧ ∃ c : WireCmd, (⟨b.catop, b.respw, b.hasarg, b.catdly⟩ : CatRow) = catalogRow c)

/-- R28 clause 6: an error has set `STICKY`; `ERR` is never 6 or 7. -/
def ErrInv (b : Block) : Prop := (b.err ≠ 0#3 → b.sticky = true) ∧ b.err.toNat ≤ 5

/-- The invariants of R28 that speak of one state (clause 3 speaks of the moment a word was written; clause 7 is of the
`STATUS` view). -/
def BlockInv (b : Block) : Prop := TxInv b ∧ RxInv b ∧ MeasInv b ∧ CatInv b ∧ ErrInv b

/-- No operation since reset or `CLR` has ended in error (R14, R149). -/
def ErrorFree (s : State) : Prop := s.block.sticky = false

/-- `T(t) = -45 + 175*t/65535` of R120, exactly. -/
def realTemp (t : Word) : ℚ := -45 + 175 * (t.toNat : ℚ) / 65535

/-- `H(h) = 100*h/65535` of R120, exactly. -/
def realRh (h : Word) : ℚ := 100 * (h.toNat : ℚ) / 65535

/-- The rational number a fraction stands for. -/
def ratOf (x : Frac) : ℚ := (x.num : ℚ) / (x.den : ℚ)

/-- The rational number a binary32 pattern stands for (R121). -/
def valueOf (v : Word32) : ℚ := ratOf (binary32Value v)

end Sys2Proof
end

