-- ==== Sys2Proof/Certificates/Slice0/Obligations.lean ====
section
/-! DEFINITION. The statements, each a proposition about the model that formalises the rules of spec/ its docstring names. -/

open Sys2Proof Sys2Proof.Machine

/-! ## Reset, registers, accesses -/

/-- R29, R160, R161, R136: the reset values of every piece of state: in the initial state, after the reset event whatever the
host is at (stuck, idle, or with actions pending), and after `CLR`. A reset that comes before the first access of a wire
command leaves the command the reset block. That the event leaves the host's side as it is, but for the list of events, is
log entry 16 (DEDUCED); the list is log entry 24 (DESIGN CHOICE). -/
def Obligations.ResetAndClrLeaveEveryRegisterAtItsValue : Prop :=
  AtResetValues State.reset.block ∧
  (∀ (s : State) (rest : List Bool), s.host.resets = true :: rest →
    ∃ t, step s = .next t ∧ AtResetValues t.block ∧ t.host = { s.host with resets := rest }) ∧
  (∀ s : State, ∃ t, exec .clr s = .next t ∧ AtResetValues t.block ∧ t.host = s.host) ∧
  (∀ (s : State) (rest : List Bool) (i : Instr) (c : WireCmd), wireOf i = some c → sessionAllows c s.host = true →
    s.host.resets = true :: rest →
    exec i s = exec i { block := State.reset.block, host := { s.host with resets := false :: rest } })

/-- The `STATUS` and `CATINFO` views (R14, R23; R28 clause 7): every field in its place, every other bit zero. -/
def Obligations.StatusAndCatInfoFieldsStandInTheirPlaces : Prop :=
  ∀ b : Block,
    (statusWord b).extractLsb' 0 3 = b.err ∧ (statusWord b).getLsbD 3 = b.sticky ∧
    (statusWord b).getLsbD 4 = b.wv[0] ∧ (statusWord b).getLsbD 5 = b.wv[1] ∧ (statusWord b).getLsbD 6 = b.wv[2] ∧
    (statusWord b).getLsbD 7 = b.mv ∧ (statusWord b).getLsbD 8 = b.catv ∧
    (∀ i, 9 ≤ i → (statusWord b).getLsbD i = false) ∧
    (catInfoWord b).extractLsb' 0 2 = b.respw ∧ (catInfoWord b).getLsbD 2 = b.hasarg ∧
    (∀ i, 3 ≤ i → (catInfoWord b).getLsbD i = false)

/-- R11, R32: a read of each readable register returns its value zero-extended and changes nothing of the block. That the
host holds the value is log entry 4, that its actions stand in a list log entry 3 (DESIGN CHOICE both). -/
def Obligations.RegisterReadsReturnTheMappedValue : Prop :=
  ∀ (s : State) (rest : List HostAction) (n : RegNum) (v : Word32), resetDue s.host = false → s.host.hung = false →
    s.host.pending = .regRead n :: rest → (n, v) ∈ registerMap s.block →
    step s = .next { s with host := { s.host with
      pending := rest, resets := s.host.resets.tail, readData := some v } }

/-- R33: a read of `CMD`, a write to any register but `CMD`, and any access to a reserved number have no meaning: the step
is refused, by name. -/
def Obligations.AccessesOutsideTheContractAreRefused : Prop :=
  ∀ (s : State) (rest : List HostAction), resetDue s.host = false → s.host.hung = false →
    (s.host.pending = .regRead 0#6 :: rest → step s = .refused .readOfCmd) ∧
    (∀ n, reservedNumber n = true → s.host.pending = .regRead n :: rest → step s = .refused (.reservedRegister n)) ∧
    (∀ n v, n ≠ 0#6 → s.host.pending = .regWrite n v :: rest →
      step s = .refused (if reservedNumber n then .reservedRegister n else .writeToReadOnly n))

/-- R12, and U6 of 93_implementation_defined.md: with nothing to do, or with the host stuck in a transport call that never
returned (log entry 9), the block waits, idle and unaffected. R52: a second host has no meaning. That its access stands in
the first host's list, and so is not reached while that host is stuck, is the model's choice and not R52's (log entry 25). -/
def Obligations.StepWaitsAndRefusesASecondHost : Prop :=
  ∀ s : State, resetDue s.host = false →
    (s.host.hung = true ∨ s.host.pending = [] →
      step s = .next { s with host := { s.host with resets := s.host.resets.tail } }) ∧
    (∀ rest, s.host.hung = false → s.host.pending = .otherHost :: rest → step s = .refused .secondHost)

/-- R13, R70: when no reset is due and the next action of a host that is not stuck is an encoded instruction, the step takes
the action off the host's list and performs exactly that instruction. R13, R65, R138: where that action is a write to `CMD`
of a word that selects no row of the operation map, the step answers the next state with `ERR = ILLEGAL_OP` and
`STICKY = 1`, and nothing else changed. That the host's actions stand in a list is log entry 3, the list of reset events log
entry 24 (DESIGN CHOICE both). -/
def Obligations.StepRunsTheDecodedInstruction : Prop :=
  ∀ (s : State) (rest : List HostAction), resetDue s.host = false → s.host.hung = false →
    (∀ (e : Encoded) (i : Instr), s.host.pending = fetchAction e :: rest → decode e = .ok i →
      step s = exec i { s with host := { s.host with pending := rest, resets := s.host.resets.tail } }) ∧
    (∀ v : Word32, s.host.pending = .regWrite 0#6 v :: rest → (∀ r ∈ operationMap, v &&& r.2 ≠ r.1) →
      step s = .next (withError 5#3
        { s with host := { s.host with pending := rest, resets := s.host.resets.tail } }))

/-! ## Encodings -/

/-- R60 to R67, R70: decoding the encoding of an instruction gives it back, every operand at every value. -/
def Obligations.DecodeOfEncodeIsTheInstruction : Prop :=
  ∀ i : Instr, decode (encode i) = .ok i

/-- R60 to R67, R70: an encoding that decodes is the encoding of the instruction it decodes to; so no two encodings decode
to one instruction. -/
def Obligations.EncodeOfDecodeIsTheEncoding : Prop :=
  ∀ (e : Encoded) (i : Instr), decode e = .ok i → encode i = e

/-- R64, R66, R67: words and frames written out from the encodings decode to the instructions they stand for. -/
def Obligations.SampleEncodingsDecode : Prop :=
  decode (.opw 0x00000000#32) = .ok .nop ∧ decode (.opw 0x110000BE#32) = .ok (.crcByte 0xBE#8) ∧
  decode (.opw 0x2100079E#32) = .ok (.encArg 0x079E#16) ∧ decode (.opw 0x220B0000#32) = .ok (.encCat 11#8) ∧
  decode (.opw 0x33030000#32) = .ok (.decAll 3#8) ∧ decode (.opw 0x40000000#32) = .ok .cvtMeas ∧
  decode (.frame [0xEC#8, 0x05#8]) = .ok .readMeasurement ∧
  decode (.frame [0x24#8, 0x27#8, 0x07#8, 0x9E#8, 0x09#8]) = .ok (.setSensorAltitude 0x079E#16 0x09#8)

/-- R63, R65, R138: a word that selects no row of the operation map raises `ILLEGAL_OP`, changing only `ERR` and `STICKY`;
a word that selects one decodes to an operation. -/
def Obligations.WordsOfNoRowAreIllegalAndOthersDecode : Prop :=
  ∀ v : Word32,
    ((∀ r ∈ operationMap, v &&& r.2 ≠ r.1) → IllegalWord v) ∧
    ((∃ r ∈ operationMap, v &&& r.2 = r.1) → ∃ i, decodeWord v = .ok i ∧ isOperation i = true)

/-- R70: a frame decodes by its length and its opcode: (5, `0xE000`) is the set, (2, `0xE000`) the get, and every other
opcode of the catalog occurs once. R70, R72: a frame of another length, or with an opcode of no row of its length, is no
command, and the step that would perform it is refused by name (log entry 19). -/
def Obligations.FramesDecodeByLengthAndOpcode : Prop :=
  (∀ (arg : Word) (crc : Byte), decodeFrame (0xE0#8 :: 0x00#8 :: be16 arg ++ [crc]) =
    .ok (.setAmbientPressure arg crc)) ∧
  decodeFrame [0xE0#8, 0x00#8] = .ok .getAmbientPressure ∧
  (∀ c d : WireCmd, (catalogRow c).opcode = (catalogRow d).opcode → c = d ∨ (catalogRow c).opcode = 0xE000#16) ∧
  (∀ (s : State) (rest : List HostAction) (bytes : List Byte), resetDue s.host = false → s.host.hung = false →
    s.host.pending = .command bytes :: rest →
    (bytes.length ≠ 2 → bytes.length ≠ 5 →
      step s = .refused (.notACommandFrame (.frameLength bytes.length))) ∧
    (∀ o1 o0 more, bytes = o1 :: o0 :: more → more.length = 0 ∨ more.length = 3 →
      (∀ c : WireCmd, (catalogRow c).opcode = joinBytes o1 o0 → (catalogRow c).hasArg ≠ decide (more.length = 3)) →
      step s = .refused (.notACommandFrame (.unknownOpcode (joinBytes o1 o0)))))

/-! ## System operations -/

/-- R135. -/
def Obligations.NopWritesOnlyErr : Prop :=
  (∀ s : State, exec .nop s = .next { s with block := { s.block with err := 0#3 } }) ∧
  decodeWord 0x00000000#32 = .ok .nop ∧
  (∀ v : Word32, opcOf v = 0x00#8 → v ≠ 0x00000000#32 → IllegalWord v)

/-- R136. -/
def Obligations.ClrReturnsTheBlockToReset : Prop :=
  (∀ s : State, exec .clr s = .next { s with block := State.reset.block }) ∧
  decodeWord 0x01000000#32 = .ok .clr ∧
  (∀ v : Word32, opcOf v = 0x01#8 → v ≠ 0x01000000#32 → IllegalWord v) ∧
  (∀ (i : Instr) (s t : State), isOperation i = true → i ≠ .clr → exec i s = .next t →
    s.block.sticky = true → t.block.sticky = true)

/-! ## CRC unit -/

/-- R93. -/
def Obligations.CrcInitStartsFromFF : Prop :=
  (∀ s : State, exec .crcInit s = .next { s with block := { s.block with crc := 0xFF#8, err := 0#3 } }) ∧
  decodeWord 0x10000000#32 = .ok .crcInit ∧
  (∀ v : Word32, opcOf v = 0x10#8 → v ≠ 0x10000000#32 → IllegalWord v)

/-- R94. -/
def Obligations.CrcByteContinuesTheRunningChecksum : Prop :=
  (∀ (b : Byte) (s : State), exec (.crcByte b) s =
    .next { s with block := { s.block with crc := crc8Update s.block.crc b, err := 0#3 } }) ∧
  (∀ b : Byte, decodeWord (0x11000000#32 ||| b.setWidth 32) = .ok (.crcByte b)) ∧
  (∀ v : Word32, opcOf v = 0x11#8 → v &&& 0x00FFFF00#32 ≠ 0#32 → IllegalWord v)

/-- R95. -/
def Obligations.CrcWordIsTheChecksumOfTwoBytes : Prop :=
  (∀ (w : Word) (s : State), exec (.crcWord w) s =
    .next { s with block := { s.block with crc := crc8 [msbOf w, lsbOf w], err := 0#3 } }) ∧
  (∀ w : Word, decodeWord (0x12000000#32 ||| w.setWidth 32) = .ok (.crcWord w)) ∧
  (∀ v : Word32, opcOf v = 0x12#8 → v &&& 0x00FF0000#32 ≠ 0#32 → IllegalWord v)

/-- R91: the empty sequence gives `0xFF`, and one byte more is one update more. -/
def Obligations.CrcOfASequenceIsAFold : Prop :=
  crc8 [] = 0xFF#8 ∧ ∀ (bytes : List Byte) (b : Byte), crc8 (bytes ++ [b]) = crc8Update (crc8 bytes) b

/-- R96: the source's vector, its two steps, and the five other CRC bytes of the source's examples. -/
def Obligations.CrcVectorsOfTheSource : Prop :=
  crc8Update 0xFF#8 0xBE#8 = 0x0C#8 ∧ crc8Update 0x0C#8 0xEF#8 = 0x92#8 ∧ crc8 [0xBE#8, 0xEF#8] = 0x92#8 ∧
  crc8 [0x66#8, 0xBF#8] = 0x1F#8 ∧ crc8 [0xEF#8, 0x07#8] = 0xF9#8 ∧ crc8 [0x3B#8, 0xF2#8] = 0xC9#8 ∧
  crc8 [0x07#8, 0x9E#8] = 0x09#8 ∧ crc8 [0x03#8, 0xDB#8] = 0x42#8

/-- R97 clause 1: the update is one look-up in the table `T` of spec/95_test_vectors.md section 2.1. -/
def Obligations.CrcUpdateIsATableLookup : Prop :=
  crcTable.length = 256 ∧ ∀ c b : Byte, crcTable[(c ^^^ b).toNat]? = some (crc8Update c b)

/-- R97 clauses 2, 3 and 4: the update is a bijection in each argument; the checksum of a valid group's three bytes is zero;
for each high byte and each checksum exactly one low byte gives it. -/
def Obligations.CrcIsBijectiveWithZeroResidue : Prop :=
  (∀ b : Byte, Function.Bijective (fun c => crc8Update c b)) ∧
  (∀ c : Byte, Function.Bijective (fun b => crc8Update c b)) ∧
  (∀ m l c : Byte, crc8 [m, l, c] = 0#8 ↔ c = crc8 [m, l]) ∧
  (∀ m v : Byte, ∃! l, crc8 [m, l] = v)

/-! ## Transmit framer and catalog -/

/-- R102. -/
def Obligations.EncCmdBuildsTheTwoByteFrame : Prop :=
  (∀ (v : Word) (s : State), exec (.encCmd v) s = .next { s with block := { s.block with
    txb := #v[msbOf v, lsbOf v, 0#8, 0#8, 0#8], txlen := 2#3, err := 0#3 } }) ∧
  (∀ v : Word, decodeWord (0x20000000#32 ||| v.setWidth 32) = .ok (.encCmd v)) ∧
  (∀ v : Word32, opcOf v = 0x20#8 → v &&& 0x00FF0000#32 ≠ 0#32 → IllegalWord v)

/-- R103. -/
def Obligations.EncArgAppendsArgumentAndChecksum : Prop :=
  (∀ (v : Word) (s : State), s.block.txlen = 2#3 → exec (.encArg v) s = .next { s with block := { s.block with
    txb := #v[s.block.txb[0], s.block.txb[1], msbOf v, lsbOf v, crc8 [msbOf v, lsbOf v]]
    txlen := 5#3, crc := crc8 [msbOf v, lsbOf v], err := 0#3 } }) ∧
  (∀ (v : Word) (s : State), s.block.txlen ≠ 2#3 → exec (.encArg v) s = .next (withError 2#3 s)) ∧
  (∀ v : Word, decodeWord (0x21000000#32 ||| v.setWidth 32) = .ok (.encArg v)) ∧
  (∀ v : Word32, opcOf v = 0x21#8 → v &&& 0x00FF0000#32 ≠ 0#32 → IllegalWord v)

/-- R104, R105. -/
def Obligations.EncCatPublishesTheRowAndItsFrame : Prop :=
  (∀ (i : Byte) (r : CatRow) (s : State), (i, r) ∈ catalogTable → exec (.encCat i) s = .next { s with block :=
    { s.block with
      catop := r.opcode, respw := r.respWords, hasarg := r.hasArg, catdly := r.delayMs, catv := true
      txb := #v[msbOf r.opcode, lsbOf r.opcode, 0#8, 0#8, 0#8], txlen := 2#3, err := 0#3 } }) ∧
  (∀ (i : Byte) (s : State), 16 < i.toNat → exec (.encCat i) s = .next (withError 3#3 s)) ∧
  (∀ i : Byte, decodeWord (0x22000000#32 ||| i.setWidth 32 <<< 16) = .ok (.encCat i)) ∧
  (∀ v : Word32, opcOf v = 0x22#8 → v &&& 0x0000FFFF#32 ≠ 0#32 → IllegalWord v)

/-! ## Receive framer -/

/-- R112. -/
def Obligations.RxClrEmptiesTheBuffer : Prop :=
  (∀ s : State, exec .rxClr s = .next { s with block := { s.block with
    rxb := #v[0#8, 0#8, 0#8, 0#8, 0#8, 0#8, 0#8, 0#8, 0#8], rxlen := 0#4, err := 0#3 } }) ∧
  decodeWord 0x30000000#32 = .ok .rxClr ∧
  (∀ v : Word32, opcOf v = 0x30#8 → v ≠ 0x30000000#32 → IllegalWord v)

/-- R113; the number of bytes loaded is at most 9 by `BlockInvariantIsKept`. -/
def Obligations.RxByteLoadsTheNextByte : Prop :=
  (∀ (v : Byte) (s : State), s.block.rxlen.toNat < 9 → exec (.rxByte v) s = .next { s with block := { s.block with
    rxb := s.block.rxb.setIfInBounds s.block.rxlen.toNat v, rxlen := s.block.rxlen + 1#4, err := 0#3 } }) ∧
  (∀ (v : Byte) (s : State), s.block.rxlen = 9#4 → exec (.rxByte v) s = .next (withError 4#3 s)) ∧
  (∀ v : Byte, decodeWord (0x31000000#32 ||| v.setWidth 32) = .ok (.rxByte v)) ∧
  (∀ v : Word32, opcOf v = 0x31#8 → v &&& 0x00FFFF00#32 ≠ 0#32 → IllegalWord v)

/-- R114. -/
def Obligations.DecWordValidatesOneGroup : Prop :=
  (∀ (k : Byte) (s : State), 2 < k.toNat → exec (.decWord k) s = .next (withError 3#3 s)) ∧
  (∀ (k : Byte) (s : State), k.toNat ≤ 2 → s.block.rxlen.toNat < 3 * k.toNat + 3 →
    exec (.decWord k) s = .next (withError 4#3 s)) ∧
  (∀ (k : Byte) (s : State) (m l c : Byte), k.toNat ≤ 2 → 3 * k.toNat + 3 ≤ s.block.rxlen.toNat →
    rxAt s.block (3 * k.toNat) = m → rxAt s.block (3 * k.toNat + 1) = l → rxAt s.block (3 * k.toNat + 2) = c →
    (crc8 [m, l] ≠ c → exec (.decWord k) s = .next { s with block := { s.block with
      mv := false, wv := s.block.wv.setIfInBounds k.toNat false, crc := crc8 [m, l], err := 1#3, sticky := true } }) ∧
    (crc8 [m, l] = c → exec (.decWord k) s = .next { s with block := { s.block with
      mv := false, wv := s.block.wv.setIfInBounds k.toNat true
      w := s.block.w.setIfInBounds k.toNat (m.setWidth 16 <<< 8 ||| l.setWidth 16)
      crc := crc8 [m, l], err := 0#3 } })) ∧
  (∀ k : Byte, decodeWord (0x32000000#32 ||| k.setWidth 32 <<< 16) = .ok (.decWord k)) ∧
  (∀ v : Word32, opcOf v = 0x32#8 → v &&& 0x0000FFFF#32 ≠ 0#32 → IllegalWord v)

/-- R115. -/
def Obligations.DecAllValidatesAllGroupsOrNone : Prop :=
  (∀ (n : Byte) (s : State), n ≠ 1#8 → n ≠ 3#8 → exec (.decAll n) s = .next (withError 3#3 s)) ∧
  (∀ (n : Byte) (s : State), n = 1#8 ∨ n = 3#8 → s.block.rxlen.toNat ≠ 3 * n.toNat →
    exec (.decAll n) s = .next (withError 4#3 s)) ∧
  (∀ (n : Byte) (s : State) (g : Nat), n = 1#8 ∨ n = 3#8 → s.block.rxlen.toNat = 3 * n.toNat → g < n.toNat →
    (∀ j < g, groupCrc s.block j = groupReceived s.block j) → groupCrc s.block g ≠ groupReceived s.block g →
    exec (.decAll n) s = .next { s with block := { s.block with
      mv := false, wv := #v[false, false, false], crc := groupCrc s.block g, err := 1#3, sticky := true } }) ∧
  (∀ s : State, s.block.rxlen = 3#4 → groupCrc s.block 0 = groupReceived s.block 0 →
    exec (.decAll 1#8) s = .next { s with block := { s.block with
      mv := false, wv := #v[true, false, false], w := #v[groupWord s.block 0, s.block.w[1], s.block.w[2]]
      crc := groupCrc s.block 0, err := 0#3 } }) ∧
  (∀ s : State, s.block.rxlen = 9#4 → (∀ j < 3, groupCrc s.block j = groupReceived s.block j) →
    exec (.decAll 3#8) s = .next { s with block := { s.block with
      mv := false, wv := #v[true, true, true]
      w := #v[groupWord s.block 0, groupWord s.block 1, groupWord s.block 2]
      crc := groupCrc s.block 2, err := 0#3 } }) ∧
  (∀ n : Byte, decodeWord (0x33000000#32 ||| n.setWidth 32 <<< 16) = .ok (.decAll n)) ∧
  (∀ v : Word32, opcOf v = 0x33#8 → v &&& 0x0000FFFF#32 ≠ 0#32 → IllegalWord v)

/-- R117: framing an argument and decoding a group are inverse, and exactly one CRC byte is accepted. -/
def Obligations.ArgumentFrameTailIsAValidGroup : Prop :=
  (∀ v : Word, decodeGroup (msbOf v) (lsbOf v) (crc8 (be16 v)) = some v) ∧
  (∀ (v : Word) (s t : State), s.block.txlen = 2#3 → exec (.encArg v) s = .next t →
    decodeGroup t.block.txb[2] t.block.txb[3] t.block.txb[4] = some v) ∧
  (∀ m l : Byte, ∃! c, (decodeGroup m l c).isSome = true)

/-- R116: whatever the step, a word that is valid after it was valid before and is the same, or came through `decode_word`
from the group of `RXB` that stands there; and a word changes only so, or to zero and not valid. -/
def Obligations.EveryValidWordPassedTheChecksum : Prop :=
  ∀ (s t : State), step s = .next t → ∀ k : Fin 3,
    (t.block.wv[k] = true →
      (s.block.wv[k] = true ∧ t.block.w[k] = s.block.w[k]) ∨
      decodeGroup (rxAt t.block (3 * k.val)) (rxAt t.block (3 * k.val + 1)) (rxAt t.block (3 * k.val + 2)) =
        some t.block.w[k]) ∧
    (t.block.wv[k] = false → t.block.w[k] = s.block.w[k] ∨ t.block.w[k] = 0#16)

/-! ## Measurement decoder -/

/-- R128, with R123 to R125 (`MEAS_ARITH = f32_stepwise`). -/
def Obligations.CvtMeasConvertsThreeValidWords : Prop :=
  (∀ s : State, s.block.wv[0] = true → s.block.wv[1] = true → s.block.wv[2] = true →
    exec .cvtMeas s = .next { s with block := { s.block with
      co2 := s.block.w[0], temp := tempF32 s.block.w[1], rh := rhF32 s.block.w[2], mv := true, err := 0#3 } }) ∧
  (∀ s : State, (∃ k : Fin 3, s.block.wv[k] = false) → exec .cvtMeas s = .next (withError 2#3 s)) ∧
  decodeWord 0x40000000#32 = .ok .cvtMeas ∧
  (∀ v : Word32, opcOf v = 0x40#8 → v ≠ 0x40000000#32 → IllegalWord v)

/-- R126 clauses 1 and 2: the distance of the results from the real formulas. -/
def Obligations.ConversionsAreWithinTheErrorBound : Prop :=
  ∀ w : Word, |valueOf (tempF32 w) - realTemp w| < 1 / 2 ^ 17 ∧ |valueOf (rhF32 w) - realRh w| < 1 / 2 ^ 18

/-- R126 clause 3: both conversions are strictly increasing. -/
def Obligations.ConversionsAreStrictlyIncreasing : Prop :=
  ∀ a b : Word, a.toNat < b.toNat →
    valueOf (tempF32 a) < valueOf (tempF32 b) ∧ valueOf (rhF32 a) < valueOf (rhF32 b)

/-- R127: the ends of the range and the results nearest zero; R131: three results of both readings. -/
def Obligations.ConversionVectors : Prop :=
  tempF32 0x0000#16 = 0xC2340000#32 ∧ tempF32 0xFFFF#16 = 0x43020000#32 ∧ rhF32 0x0000#16 = 0x00000000#32 ∧
  rhF32 0xFFFF#16 = 0x42C80000#32 ∧ tempF32 0x41D3#16 = 0xBB160000#32 ∧ tempF32 0x41D4#16 = 0x39C80000#32 ∧
  tempF32 0x3366#16 = 0xC11DD22C#32 ∧ tempF64 0x3366#16 = 0xC11DD22E#32 ∧
  tempF32 0x5EB9#16 = 0x419E05C0#32 ∧ tempF64 0x5EB9#16 = 0x419E05BE#32 ∧
  tempF32 0x6667#16 = 0x41C80578#32 ∧ tempF64 0x6667#16 = 0x41C80578#32 ∧ rhF32 0x67A2#16 = 0x4221EDC2#32

/-- R127: temperature lies in [-45, 130] and is never zero, humidity in [0, 100] and is zero only for 0; every result is a
normal number or +0.0. -/
def Obligations.ConversionsAreNormalNumbersInRange : Prop :=
  ∀ w : Word,
    -45 ≤ valueOf (tempF32 w) ∧ valueOf (tempF32 w) ≤ 130 ∧ 0 ≤ valueOf (rhF32 w) ∧ valueOf (rhF32 w) ≤ 100 ∧
    1 ≤ ((tempF32 w).extractLsb' 23 8).toNat ∧ ((tempF32 w).extractLsb' 23 8).toNat ≤ 254 ∧
    (w = 0#16 → rhF32 w = 0#32) ∧
    (w ≠ 0#16 → 1 ≤ ((rhF32 w).extractLsb' 23 8).toNat ∧ ((rhF32 w).extractLsb' 23 8).toNat ≤ 254 ∧
      (rhF32 w).getLsbD 31 = false)

/-! ## The block as a whole -/

/-- R28 (clauses 1, 2, 4, 5, 6): every step keeps the invariants, from every state that has them. -/
def Obligations.BlockInvariantIsKept : Prop :=
  ∀ s t : State, BlockInv s.block → step s = .next t → BlockInv t.block

/-- R28, R29: the invariants hold after reset. -/
def Obligations.BlockInvariantHoldsAtReset : Prop := BlockInv State.reset.block

/-- R136, R147, R160: `STICKY` stays 1 until `CLR` or reset: if a step clears it, the host wrote `CLR`, or a reset event was
listed to come. -/
def Obligations.StickyIsClearedOnlyByClrOrReset : Prop :=
  ∀ s t : State, step s = .next t → s.block.sticky = true → t.block.sticky = false →
    true ∈ s.host.resets ∨ ∃ rest, s.host.pending = .regWrite 0#6 0x01000000#32 :: rest

/-- R137, R145: an operation that ends in an error other than `CRC_MISMATCH` changes nothing but `ERR` and `STICKY`. -/
def Obligations.ErrorsOtherThanMismatchChangeNothingElse : Prop :=
  ∀ (i : Instr) (s t : State), isOperation i = true → exec i s = .next t → t.block.err ≠ 0#3 → t.block.err ≠ 1#3 →
    t = withError t.block.err s

/-- R15, R16, R17, R18, R26: which operations may change which register; the thirteen operations touch nothing of the
host. -/
def Obligations.RegistersAreChangedOnlyByTheirWriters : Prop :=
  ∀ (i : Instr) (s t : State), isOperation i = true → exec i s = .next t →
    t.host = s.host ∧
    (i ∉ [.crcInit, .clr] → (∀ b, i ≠ .crcByte b) → (∀ w, i ≠ .crcWord w) → (∀ v, i ≠ .encArg v) →
      (∀ k, i ≠ .decWord k) → (∀ n, i ≠ .decAll n) → t.block.crc = s.block.crc) ∧
    (i ≠ .clr → (∀ v, i ≠ .encCmd v) → (∀ v, i ≠ .encArg v) → (∀ k, i ≠ .encCat k) →
      t.block.txb = s.block.txb ∧ t.block.txlen = s.block.txlen) ∧
    (i ∉ [.clr, .rxClr] → (∀ b, i ≠ .rxByte b) → t.block.rxb = s.block.rxb ∧ t.block.rxlen = s.block.rxlen) ∧
    (i ≠ .clr → (∀ k, i ≠ .decWord k) → (∀ n, i ≠ .decAll n) →
      t.block.w = s.block.w ∧ t.block.wv = s.block.wv ∧ (i ≠ .cvtMeas → t.block.mv = s.block.mv)) ∧
    (i ∉ [.clr, .cvtMeas] → t.block.co2 = s.block.co2 ∧ t.block.temp = s.block.temp ∧ t.block.rh = s.block.rh) ∧
    (i ≠ .clr → (∀ k, i ≠ .encCat k) → t.block.catop = s.block.catop ∧ t.block.respw = s.block.respw ∧
      t.block.hasarg = s.block.hasarg ∧ t.block.catdly = s.block.catdly ∧ t.block.catv = s.block.catv)

/-- R47: the operations the rule lists as idempotent, and decoding and conversion, give the same state again when repeated
at once. -/
def Obligations.RepeatedOperationsGiveTheSameState : Prop :=
  ∀ (i : Instr) (s t : State), isOperation i = true → (∀ b, i ≠ .crcByte b) → (∀ b, i ≠ .rxByte b) →
    (∀ v, i ≠ .encArg v) → exec i s = .next t → exec i t = .next t

/-- R74: `CRC.SPAN` computes `crc8` of its bytes and writes nothing but `CRC` and `ERR`. -/
def Obligations.CrcSpanComputesCrc8 : Prop :=
  ∀ (bytes : List Byte) (s : State), execAll (crcSpan bytes) s =
    .next { s with block := { s.block with crc := crc8 bytes, err := 0#3 } }

/-- R74: `RX.LOAD` of at most 9 bytes leaves them in `RXB` in order, the rest zero, and writes nothing but `RXB`, `RXLEN`
and `ERR`. `READ.MEAS` of nine bytes decodes and converts three valid groups; where a group does not match, its `CVT.MEAS`
raises `SEQ`, no word is valid, and words and results are as before. -/
def Obligations.RxLoadAndReadMeasDecodeAMeasurement : Prop :=
  (∀ (bytes : List Byte) (s : State), bytes.length ≤ 9 →
    ∃ t, execAll (rxLoad bytes) s = .next t ∧ t.block.rxlen.toNat = bytes.length ∧
      (∀ i : Fin 9, t.block.rxb[i] = bytes.getD i.val 0#8) ∧
      t = { s with block := { s.block with rxb := t.block.rxb, rxlen := t.block.rxlen, err := 0#3 } }) ∧
  (∀ (s : State) (m0 l0 c0 m1 l1 c1 m2 l2 c2 : Byte),
    crc8 [m0, l0] = c0 → crc8 [m1, l1] = c1 → crc8 [m2, l2] = c2 →
    execAll (readMeas [m0, l0, c0, m1, l1, c1, m2, l2, c2]) s = .next { s with block := { s.block with
      rxb := #v[m0, l0, c0, m1, l1, c1, m2, l2, c2], rxlen := 9#4, crc := c2
      w := #v[joinBytes m0 l0, joinBytes m1 l1, joinBytes m2 l2], wv := #v[true, true, true]
      co2 := joinBytes m0 l0, temp := tempF32 (joinBytes m1 l1), rh := rhF32 (joinBytes m2 l2), mv := true
      err := 0#3 } }) ∧
  (∀ (s : State) (bytes : List Byte) (k : Nat), bytes.length = 9 → k < 3 →
    crc8 [bytes.getD (3 * k) 0#8, bytes.getD (3 * k + 1) 0#8] ≠ bytes.getD (3 * k + 2) 0#8 →
    ∃ t, execAll (readMeas bytes) s = .next t ∧ t.block.err = 2#3 ∧ t.block.sticky = true ∧
      t.block.wv = #v[false, false, false] ∧ t.block.mv = false ∧ t.block.w = s.block.w ∧
      t.block.co2 = s.block.co2 ∧ t.block.temp = s.block.temp ∧ t.block.rh = s.block.rh)

/-- R74, R67: `SENDA name, v` builds the 5-byte frame of any catalog row. -/
def Obligations.SendABuildsTheFiveByteFrame : Prop :=
  ∀ (c : WireCmd) (v : Word) (s : State), ∃ t, execAll (sendA c v) s = .next t ∧
    frameBytes t.block = cmdArgFrame (catalogRow c).opcode v ∧ t.block.crc = crcOfWord v ∧ t.block.err = 0#3

/-! ## Wire commands: the host's calls over the block and the transport. Where `STRICT_SESSION` holds and the host's mode
forbids a call, it is turned away (D29; log entry 8). A statement that fixes the whole next state is about an exchange in
which no reset event falls (`resets = []`); what resets inside an exchange may do is in `ResetAndClrLeaveEveryRegister…`,
`FailuresOfTheBlockEndTheCallWithAnError`, `TheFrameOnTheWireIsTheInstructionsEncoding`,
`WritePrecedesDelayPrecedesRead` and the invariants. -/

/-- R171, R173, R185: a command without argument or response, its write succeeding: `ENC.CAT`, one write of the 2-byte
frame, the delay, nothing else. -/
def Obligations.PlainCommandsWriteTheFrameThenWait : Prop :=
  ∀ (s : State) (bytes : List Byte) (rest : List TransportReply), s.host.resets = [] →
    s.host.replies = .ok bytes :: rest →
    ∀ (i : Instr) (c : WireCmd), (i, c) ∈ [(.reinit, .reinit), (.persistSettings, .persistSettings)] →
      exec i s = .next (if sessionAllows c s.host then
        { block := selected c s.block
          host := { s.host with
            wire := s.host.wire ++ [.write Config.busAddr (be16 (catalogRow c).opcode), .sleep (catalogRow c).delayMs]
            replies := rest, calls := s.host.calls + 1, result := some (.ok .done) } }
        else turnedAway s)

/-- R171, R173, R176, R185: the three commands that change the sensor's mode, their write succeeding. -/
def Obligations.ModeCommandsWriteTheFrameAndNoteTheMode : Prop :=
  ∀ (s : State) (bytes : List Byte) (rest : List TransportReply), s.host.resets = [] →
    s.host.replies = .ok bytes :: rest →
    ∀ (i : Instr) (c : WireCmd) (m : SensorMode) (owed : Bool),
      (i, c, m, owed) ∈ [(.wakeup, .wakeup, .idle, s.host.stopOwed),
        (.startPeriodicMeasurement, .startPeriodicMeasurement, .periodicMeasuring, false),
        (.stopPeriodicMeasurement, .stopPeriodicMeasurement, .idle, false)] →
      exec i s = .next (if sessionAllows c s.host then
        { block := selected c s.block
          host := { s.host with
            wire := s.host.wire ++ [.write Config.busAddr (be16 (catalogRow c).opcode), .sleep (catalogRow c).delayMs]
            replies := rest, calls := s.host.calls + 1, result := some (.ok .done)
            mode := modeAfter m s.host
            shotDone := if Config.strictSession then false else s.host.shotDone
            stopOwed := if Config.strictSession then owed else s.host.stopOwed } }
        else turnedAway s)

/-- R174, R183, R184: a command with argument: `ENC.CAT`, `ENC.ARG`, one write of all five bytes, the delay, no read. -/
def Obligations.ArgumentCommandsWriteFiveBytesAtOnce : Prop :=
  ∀ (s : State) (bytes : List Byte) (rest : List TransportReply) (arg : Word), s.host.resets = [] →
    s.host.replies = .ok bytes :: rest →
    ∀ (i : Instr) (c : WireCmd) (crc : Byte),
      (i, c) ∈ [(.setSensorAltitude arg crc, .setSensorAltitude), (.setAmbientPressure arg crc, .setAmbientPressure),
        (.setAscEnabled arg crc, .setAscEnabled), (.setAscTarget arg crc, .setAscTarget)] →
      exec i s = .next (if sessionAllows c s.host then
        { block := { selected c s.block with
            txb := #v[msbOf (catalogRow c).opcode, lsbOf (catalogRow c).opcode, msbOf arg, lsbOf arg, crcOfWord arg]
            txlen := 5#3, crc := crcOfWord arg }
          host := { s.host with
            wire := s.host.wire ++
              [.write Config.busAddr (cmdArgFrame (catalogRow c).opcode arg), .sleep (catalogRow c).delayMs]
            replies := rest, calls := s.host.calls + 1, result := some (.ok .done) } }
        else turnedAway s)

/-- R171, R180, R183, R184: a command with a response of one word, its write and read succeeding with a valid group. That
`get_asc_enabled` and `get_asc_target` return the word as it was read is the model's choice (log entry 15: `ASC_CODING` is
open). -/
def Obligations.OneWordCommandsReadAndInterpretTheWord : Prop :=
  ∀ (s : State) (bytes : List Byte) (rest : List TransportReply) (m l c : Byte),
    s.host.resets = [] → s.host.replies = .ok bytes :: .ok [m, l, c] :: rest → crc8 [m, l] = c →
    ∀ (i : Instr) (cmd : WireCmd) (v : HostValue),
      (i, cmd, v) ∈ [(.getSensorAltitude, .getSensorAltitude, .word (joinBytes m l)),
        (.getAscEnabled, .getAscEnabled, .word (joinBytes m l)), (.getAscTarget, .getAscTarget, .word (joinBytes m l)),
        (.getAmbientPressure, .getAmbientPressure, .pascals ((joinBytes m l).toNat * 100)),
        (.getDataReadyStatus, .getDataReadyStatus, .ready (joinBytes m l &&& 0x07FF#16 != 0#16))] →
      exec i s = .next (if sessionAllows cmd s.host then
        { block := { selected cmd s.block with
            rxb := #v[m, l, c, 0#8, 0#8, 0#8, 0#8, 0#8, 0#8], rxlen := 3#4, crc := c, mv := false
            w := #v[joinBytes m l, s.block.w[1], s.block.w[2]], wv := #v[true, false, false] }
          host := { s.host with
            wire := s.host.wire ++ [.write Config.busAddr (be16 (catalogRow cmd).opcode),
              .sleep (catalogRow cmd).delayMs, .read Config.busAddr 3]
            replies := rest, calls := s.host.calls + 2, result := some (.ok v) } }
        else turnedAway s)

/-- R171, R182: the serial number is the concatenation of three valid words. -/
def Obligations.SerialNumberConcatenatesThreeWords : Prop :=
  ∀ (s : State) (bytes : List Byte) (rest : List TransportReply) (m0 l0 c0 m1 l1 c1 m2 l2 c2 : Byte),
    s.host.resets = [] → s.host.replies = .ok bytes :: .ok [m0, l0, c0, m1, l1, c1, m2, l2, c2] :: rest →
    crc8 [m0, l0] = c0 → crc8 [m1, l1] = c1 → crc8 [m2, l2] = c2 →
    exec .getSerialNumber s = .next (if sessionAllows .getSerialNumber s.host then
      { block := { selected .getSerialNumber s.block with
          rxb := #v[m0, l0, c0, m1, l1, c1, m2, l2, c2], rxlen := 9#4, crc := c2, mv := false
          w := #v[joinBytes m0 l0, joinBytes m1 l1, joinBytes m2 l2], wv := #v[true, true, true] }
        host := { s.host with
          wire := s.host.wire ++ [.write Config.busAddr [0x36#8, 0x82#8], .sleep 1#32, .read Config.busAddr 9]
          replies := rest, calls := s.host.calls + 2
          result := some (.ok (.serial ((joinBytes m0 l0).setWidth 48 <<< 32 ||| (joinBytes m1 l1).setWidth 48 <<< 16 |||
            (joinBytes m2 l2).setWidth 48))) } }
      else turnedAway s)

/-- R171, R181: a measurement read over the wire is validated, converted, and returned. -/
def Obligations.ReadMeasurementReturnsTheConversion : Prop :=
  ∀ (s : State) (bytes : List Byte) (rest : List TransportReply) (m0 l0 c0 m1 l1 c1 m2 l2 c2 : Byte),
    s.host.resets = [] → s.host.replies = .ok bytes :: .ok [m0, l0, c0, m1, l1, c1, m2, l2, c2] :: rest →
    crc8 [m0, l0] = c0 → crc8 [m1, l1] = c1 → crc8 [m2, l2] = c2 →
    exec .readMeasurement s = .next (if sessionAllows .readMeasurement s.host then
      { block := { selected .readMeasurement s.block with
          rxb := #v[m0, l0, c0, m1, l1, c1, m2, l2, c2], rxlen := 9#4, crc := c2, mv := true
          w := #v[joinBytes m0 l0, joinBytes m1 l1, joinBytes m2 l2], wv := #v[true, true, true]
          co2 := joinBytes m0 l0, temp := tempF32 (joinBytes m1 l1), rh := rhF32 (joinBytes m2 l2) }
        host := { s.host with
          wire := s.host.wire ++ [.write Config.busAddr [0xEC#8, 0x05#8], .sleep 1#32, .read Config.busAddr 9]
          replies := rest, calls := s.host.calls + 2
          result := some (.ok (.measurement (joinBytes m0 l0) (tempF32 (joinBytes m1 l1)) (rhF32 (joinBytes m2 l2)))) } }
      else turnedAway s)

/-- R179: a single shot is exactly three exchanges in order: trigger, wakeup, read. -/
def Obligations.SingleShotIsThreeExchangesInOrder : Prop :=
  ∀ (s : State) (b1 b2 b3 : List Byte) (rest : List TransportReply) (m0 l0 c0 m1 l1 c1 m2 l2 c2 : Byte),
    s.host.resets = [] → s.host.replies = .ok b1 :: .ok b2 :: .ok b3 :: .ok [m0, l0, c0, m1, l1, c1, m2, l2, c2] :: rest →
    crc8 [m0, l0] = c0 → crc8 [m1, l1] = c1 → crc8 [m2, l2] = c2 →
    exec .singleShotMeasurement s = .next (if sessionAllows .singleShotMeasurement s.host then
      { block := { selected .readMeasurement s.block with
          rxb := #v[m0, l0, c0, m1, l1, c1, m2, l2, c2], rxlen := 9#4, crc := c2, mv := true
          w := #v[joinBytes m0 l0, joinBytes m1 l1, joinBytes m2 l2], wv := #v[true, true, true]
          co2 := joinBytes m0 l0, temp := tempF32 (joinBytes m1 l1), rh := rhF32 (joinBytes m2 l2) }
        host := { s.host with
          wire := s.host.wire ++ singleShotCalls
          replies := rest, calls := s.host.calls + 4
          result := some (.ok (.measurement (joinBytes m0 l0) (tempF32 (joinBytes m1 l1)) (rhF32 (joinBytes m2 l2))))
          mode := modeAfter .idle s.host
          shotDone := if Config.strictSession then true else s.host.shotDone } }
      else turnedAway s)

/-- R152, R173, R179: a failing write ends a call with `IoWriteError`, no delay and no read after it; a write that never
returns leaves the host stuck, with no result (93 U6; log entry 9). For the first write of every call, and for the third of
a single shot. -/
def Obligations.FailingWriteEndsTheCallAtOnce : Prop :=
  (∀ (s : State) (i : Instr) (c : WireCmd) (bytes : List Byte) (rest : List TransportReply), s.host.resets = [] →
    wireOf i = some c → WellFormed i = true → encode i = .frame bytes →
    (s.host.replies = .error :: rest → ∃ t, exec i s = .next t ∧ (sessionAllows c s.host = true →
      t.host.result = some (.error .ioWrite) ∧ t.host.wire = s.host.wire ++ [.write Config.busAddr bytes] ∧
      t.host.replies = rest)) ∧
    (s.host.replies = .noReturn :: rest → ∃ t, exec i s = .next t ∧ (sessionAllows c s.host = true →
      t.host.result = none ∧ t.host.hung = true ∧ t.host.wire = s.host.wire ++ [.write Config.busAddr bytes]))) ∧
  (∀ (s : State) (b1 b2 : List Byte) (rest : List TransportReply), s.host.resets = [] →
    (s.host.replies = .ok b1 :: .ok b2 :: .error :: rest → ∃ t, exec .singleShotMeasurement s = .next t ∧
      (sessionAllows .singleShotMeasurement s.host = true →
        t.host.result = some (.error .ioWrite) ∧ t.host.wire = s.host.wire ++ singleShotCalls.take 5 ∧
        t.host.replies = rest ∧ t.block = selected .readMeasurement s.block)) ∧
    (s.host.replies = .ok b1 :: .ok b2 :: .noReturn :: rest → ∃ t, exec .singleShotMeasurement s = .next t ∧
      (sessionAllows .singleShotMeasurement s.host = true →
        t.host.result = none ∧ t.host.hung = true ∧ t.host.wire = s.host.wire ++ singleShotCalls.take 5 ∧
        t.block = selected .readMeasurement s.block)))

/-- R152, R170, R179: a failing or short read ends a call with `IoReadError`; nothing is loaded and no word is touched. A
read that never returns leaves the host stuck, with no result and the block as `ENC.CAT` left it (93 U6, R175; log entry 9).
For every call with a response, and for the read of a single shot. -/
def Obligations.FailingOrShortReadLoadsNothing : Prop :=
  (∀ (s : State) (i : Instr) (c : WireCmd) (b1 : List Byte) (r : TransportReply) (rest : List TransportReply)
      (result : Option HostResult) (hung : Bool),
    s.host.resets = [] → wireOf i = some c → (catalogRow c).respWords ≠ 0#2 → s.host.replies = .ok b1 :: r :: rest →
    FailedRead r (3 * (catalogRow c).respWords.toNat) s.host.hung result hung →
    exec i s = .next (if sessionAllows c s.host then
      { block := selected c s.block
        host := { s.host with
          wire := s.host.wire ++ [.write Config.busAddr (be16 (catalogRow c).opcode), .sleep (catalogRow c).delayMs,
            .read Config.busAddr (3 * (catalogRow c).respWords.toNat)]
          replies := rest, calls := s.host.calls + 2, result := result, hung := hung } }
      else turnedAway s)) ∧
  (∀ (s : State) (b1 b2 b3 : List Byte) (r : TransportReply) (rest : List TransportReply)
      (result : Option HostResult) (hung : Bool),
    s.host.resets = [] → s.host.replies = .ok b1 :: .ok b2 :: .ok b3 :: r :: rest →
    FailedRead r 9 s.host.hung result hung →
    exec .singleShotMeasurement s = .next (if sessionAllows .singleShotMeasurement s.host then
      { block := selected .readMeasurement s.block
        host := { s.host with
          wire := s.host.wire ++ singleShotCalls, replies := rest, calls := s.host.calls + 4
          result := result, hung := hung, mode := modeAfter .idle s.host
          shotDone := if Config.strictSession then true else s.host.shotDone } }
      else turnedAway s))

/-- R142, R152, R153: a response with one group whose CRC byte does not match ends a call with `ChecksumError`: no word is
valid and none is stored; for every call with a response, and for a single shot. R153, R160, R168: no failure of the block is
swallowed either where a reset falls inside the call. `SEQ` of `ENC.ARG`, `LENGTH` of `DEC.ALL` and `SEQ` of `CVT.MEAS` after a
reset each end the call with an error, with nothing written in the first case; R152 names no kind for it (log entry 21). And
whatever resets fall inside, a call with a response that returns a value returns what its response says, and every group of
that response matched. That `get_asc_enabled` and `get_asc_target` return the word as it was read is the model's choice (log
entry 15: `ASC_CODING` is open). -/
def Obligations.FailuresOfTheBlockEndTheCallWithAnError : Prop :=
  (∀ (s : State) (i : Instr) (c : WireCmd) (b1 bytes : List Byte) (rest : List TransportReply) (k : Nat),
    s.host.resets = [] →
    wireOf i = some c → bytes.length = 3 * (catalogRow c).respWords.toNat → k < (catalogRow c).respWords.toNat →
    ¬ groupMatches bytes k → s.host.replies = .ok b1 :: .ok bytes :: rest →
    ∃ t, exec i s = .next t ∧ (sessionAllows c s.host = true →
      t.host.result = some (.error .checksum) ∧ t.block.w = s.block.w ∧ t.block.wv = #v[false, false, false] ∧
      t.block.mv = false ∧ t.block.err = 1#3 ∧ t.block.sticky = true)) ∧
  (∀ (s : State) (b1 b2 b3 bytes : List Byte) (rest : List TransportReply) (k : Nat),
    s.host.resets = [] → bytes.length = 9 → k < 3 → ¬ groupMatches bytes k →
    s.host.replies = .ok b1 :: .ok b2 :: .ok b3 :: .ok bytes :: rest →
    ∃ t, exec .singleShotMeasurement s = .next t ∧ (sessionAllows .singleShotMeasurement s.host = true →
      t.host.result = some (.error .checksum) ∧ t.block.w = s.block.w ∧ t.block.wv = #v[false, false, false] ∧
      t.block.mv = false ∧ t.block.err = 1#3 ∧ t.block.sticky = true ∧
      t.host.wire = s.host.wire ++ singleShotCalls)) ∧
  (∀ (s : State) (i : Instr) (c : WireCmd), wireOf i = some c → (catalogRow c).hasArg = true →
    s.host.resets = [false, true] →
    ∃ t, exec i s = .next t ∧ (sessionAllows c s.host = true →
      t.host.result = some (.error (Config.statusErrorKind 0x0000000A#32)) ∧ t.block = resetThenError 2#3 ∧
      t.host.wire = s.host.wire)) ∧
  (∀ (s : State) (i : Instr) (c : WireCmd) (b1 : List Byte) (m l x : Byte) (rest : List TransportReply),
    wireOf i = some c → (catalogRow c).respWords = 1#2 → s.host.resets = List.replicate 9 false ++ [true] →
    s.host.replies = .ok b1 :: .ok [m, l, x] :: rest →
    ∃ t, exec i s = .next t ∧ (sessionAllows c s.host = true →
      t.host.result = some (.error (Config.statusErrorKind 0x0000000C#32)) ∧ t.block = resetThenError 4#3)) ∧
  (∀ (s : State) (b1 bytes : List Byte) (rest : List TransportReply), bytes.length = 9 → (∀ k < 3, groupMatches bytes k) →
    s.host.resets = List.replicate 17 false ++ [true] → s.host.replies = .ok b1 :: .ok bytes :: rest →
    ∃ t, exec .readMeasurement s = .next t ∧ (sessionAllows .readMeasurement s.host = true →
      t.host.result = some (.error (Config.statusErrorKind 0x0000000A#32)) ∧ t.block = resetThenError 2#3)) ∧
  (∀ (s t : State) (i : Instr) (c : WireCmd) (b1 bytes : List Byte) (rest : List TransportReply) (v : HostValue),
    wireOf i = some c → (catalogRow c).respWords ≠ 0#2 → s.host.replies = .ok b1 :: .ok bytes :: rest →
    sessionAllows c s.host = true → exec i s = .next t → t.host.result = some (.ok v) →
    (∀ k < (catalogRow c).respWords.toNat, groupMatches bytes k) ∧
    v = answerOf c (responseWord bytes 0) (responseWord bytes 1) (responseWord bytes 2)) ∧
  (∀ (s t : State) (b1 b2 b3 bytes : List Byte) (rest : List TransportReply) (v : HostValue),
    s.host.replies = .ok b1 :: .ok b2 :: .ok b3 :: .ok bytes :: rest →
    sessionAllows .singleShotMeasurement s.host = true → exec .singleShotMeasurement s = .next t →
    t.host.result = some (.ok v) →
    (∀ k < 3, groupMatches bytes k) ∧
    v = answerOf .singleShotMeasurement (responseWord bytes 0) (responseWord bytes 1) (responseWord bytes 2))

/-- R152, R179: a failing wake-up inside a single shot is `WakeupError`, and the read is not reached; one that never returns
leaves the host stuck, with no result (93 U6; log entry 9). -/
def Obligations.FailingWakeupInsideASingleShotIsItsOwnError : Prop :=
  ∀ (s : State) (b1 : List Byte) (rest : List TransportReply), s.host.resets = [] →
    (s.host.replies = .ok b1 :: .error :: rest →
      ∃ t, exec .singleShotMeasurement s = .next t ∧ (sessionAllows .singleShotMeasurement s.host = true →
        t.host.result = some (.error .wakeup) ∧ t.block = selected .wakeup s.block ∧
        t.host.wire = s.host.wire ++ singleShotCalls.take 3)) ∧
    (s.host.replies = .ok b1 :: .noReturn :: rest →
      ∃ t, exec .singleShotMeasurement s = .next t ∧ (sessionAllows .singleShotMeasurement s.host = true →
        t.host.result = none ∧ t.host.hung = true ∧ t.block = selected .wakeup s.block ∧
        t.host.wire = s.host.wire ++ singleShotCalls.take 3))

/-- R176, R177: in which mode the host knows each call is valid; R163: a stop is valid too in an unknown mode, and in `Idle`
while the stop-before-start after a restart is still to come. That an unknown mode allows nothing else but `wakeup` is the
model's choice (log entry 8). -/
def Obligations.CallsAreValidInTheModesOfTheTable : Prop :=
  ∀ h : HostSide,
    modeAllows .wakeup h = true ∧
    (modeAllows .startPeriodicMeasurement h = true ↔ h.mode = some .idle) ∧
    (modeAllows .stopPeriodicMeasurement h = true ↔
      h.mode = some .periodicMeasuring ∨ h.mode = none ∨ (h.mode = some .idle ∧ h.stopOwed = true)) ∧
    (modeAllows .singleShotMeasurement h = true ↔ h.mode = some .idle) ∧
    (modeAllows .readMeasurement h = true ↔
      h.mode = some .periodicMeasuring ∨ (h.mode = some .idle ∧ h.shotDone = true)) ∧
    (modeAllows .getDataReadyStatus h = true ↔ h.mode = some .periodicMeasuring) ∧
    (∀ c ∈ [WireCmd.reinit, .persistSettings, .setSensorAltitude, .getSensorAltitude, .setAmbientPressure,
      .getAmbientPressure, .setAscEnabled, .getAscEnabled, .setAscTarget, .getAscTarget],
      (modeAllows c h = true ↔ h.mode = some .idle))

/-- D29, R178: a call the mode forbids: under `STRICT_SESSION` it fails with `InvalidStateError`, transport and block
untouched. -/
def Obligations.StrictSessionTurnsForbiddenCallsAway : Prop :=
  ∀ (s : State) (i : Instr) (c : WireCmd), wireOf i = some c → modeAllows c s.host = false →
    ∃ t, exec i s = .next t ∧ (Config.strictSession = true → t = turnedAway s)

/-- R170, R66, R67: the first thing a call writes to the wire is the encoding of its instruction, byte for byte; where a
reset falls before the frame is read, nothing is written and the call ends with an error (R153, R168; log entry 21). -/
def Obligations.TheFrameOnTheWireIsTheInstructionsEncoding : Prop :=
  ∀ (s : State) (i : Instr) (c : WireCmd) (bytes : List Byte),
    wireOf i = some c → WellFormed i = true → encode i = .frame bytes →
    ∃ t new, exec i s = .next t ∧ t.host.wire = s.host.wire ++ new ∧
      (sessionAllows c s.host = true →
        (∃ more, new = .write Config.busAddr bytes :: more) ∨
        (true ∈ s.host.resets ∧ new = [] ∧ ∃ e, t.host.result = some (.error e)))

/-- R171: whatever the transport answers, the calls of an instruction keep the order write, delay, read in every exchange. -/
def Obligations.WritePrecedesDelayPrecedesRead : Prop :=
  ∀ (i : Instr) (s t : State), exec i s = .next t →
    ∃ new, t.host.wire = s.host.wire ++ new ∧ exchangeOrdered new = true

/-- R183, R184, D28, D33: the host calls whose argument the host codes perform the command with the coded argument. -/
def Obligations.HostCodedCallsPerformTheCommand : Prop :=
  ∀ (s : State) (rest : List HostAction) (v : Nat), resetDue s.host = false → s.host.hung = false →
    (s.host.pending = .api (.setAmbientPressure v) :: rest → step s =
      exec (.setAmbientPressure (Config.paToHpa v) (crcOfWord (Config.paToHpa v)))
        { s with host := { s.host with pending := rest, resets := s.host.resets.tail } }) ∧
    (s.host.pending = .api (.setAscEnabled v) :: rest → step s =
      exec (.setAscEnabled (Config.ascEnabledCoding v) (crcOfWord (Config.ascEnabledCoding v)))
        { s with host := { s.host with pending := rest, resets := s.host.resets.tail } }) ∧
    (s.host.pending = .api (.setAscTarget v) :: rest → step s =
      exec (.setAscTarget (Config.ascTargetCoding v) (crcOfWord (Config.ascTargetCoding v)))
        { s with host := { s.host with pending := rest, resets := s.host.resets.tail } })

/-- R170, R171 steps 2 to 5, taken one by one (log entries 19, 23): `write` sends the frame in `TXB`, `sleep` is recorded, and
the bytes of a successful `read` are loaded as `RX.LOAD` loads them, and where there are more than nine the `LENGTH` of the
last ends the part with an error (R113, R153; log entries 21, 23). R152: a failing `write` is `IoWriteError`, a failing or
short `read` `IoReadError`, with nothing loaded; one that never returns leaves the host stuck (93 U6; log entry 9). -/
def Obligations.PartsOfAnExchangeByThemselves : Prop :=
  ∀ (s : State) (rest : List HostAction) (more : List TransportReply), s.host.resets = [] → s.host.hung = false →
    (∀ r result hung, s.host.pending = .send :: rest → s.host.replies = r :: more →
      (∃ bytes, r = .ok bytes ∧ result = some (.ok .done) ∧ hung = false) ∨
        (r = .error ∧ result = some (.error .ioWrite) ∧ hung = false) ∨ (r = .noReturn ∧ result = none ∧ hung = true) →
      step s = .next { s with host := { s.host with
        pending := rest, replies := more, calls := s.host.calls + 1, result := result, hung := hung
        wire := s.host.wire ++ [.write Config.busAddr (s.block.txb.toList.take s.block.txlen.toNat)] } }) ∧
    (∀ ms, s.host.pending = .sleep ms :: rest →
      step s = .next { s with host := { s.host with pending := rest, wire := s.host.wire ++ [.sleep ms] } }) ∧
    (∀ bytes, s.host.pending = .receive bytes.length :: rest → s.host.replies = .ok bytes :: more →
      ∃ t u, step s = .next t ∧ execAll (rxLoad bytes) s = .next u ∧ t.block = u.block ∧
        t.host = { s.host with
          pending := rest, replies := more, calls := s.host.calls + 1
          result := some (if bytes.length ≤ 9 then .ok .done else .error (Config.statusErrorKind (statusWord u.block)))
          wire := s.host.wire ++ [.read Config.busAddr bytes.length] }) ∧
    (∀ len r result hung, s.host.pending = .receive len :: rest → s.host.replies = r :: more →
      FailedRead r len false result hung →
      step s = .next { s with host := { s.host with
        pending := rest, replies := more, calls := s.host.calls + 1, result := result, hung := hung
        wire := s.host.wire ++ [.read Config.busAddr len] } })
end

