-- ==== Sys2Proof/Laws/Operands.lean ====
section
/-! SUPPORT. The operand forms, once each: the fields of a packed operation word, split and join of a word, the checksum as a
fold, and the bounds of the catalog. -/

namespace Sys2Proof.Machine

@[simp] theorem opcOf_opWord (o a : Byte) (i : Word) : opcOf (opWord o a i) = o := by
  apply BitVec.eq_of_getLsbD_eq; intro k hk
  interval_cases k <;> simp [opcOf, opWord]

@[simp] theorem indexOperand_opWord (o a : Byte) (i : Word) : indexOperand (opWord o a i) = a := by
  apply BitVec.eq_of_getLsbD_eq; intro k hk
  interval_cases k <;> simp [indexOperand, opWord]

@[simp] theorem wordOperand_opWord (o a : Byte) (i : Word) : wordOperand (opWord o a i) = i := by
  apply BitVec.eq_of_getLsbD_eq; intro k hk
  interval_cases k <;> simp [wordOperand, opWord]

@[simp] theorem byteOperand_setWidth (b : Byte) : byteOperand (b.setWidth 16) = b := by
  apply BitVec.eq_of_getLsbD_eq; intro k hk
  interval_cases k <;> simp [byteOperand]

@[simp] theorem msbOf_joinBytes (m l : Byte) : msbOf (joinBytes m l) = m := by
  apply BitVec.eq_of_getLsbD_eq; intro k hk
  interval_cases k <;> simp [msbOf, joinBytes]

@[simp] theorem lsbOf_joinBytes (m l : Byte) : lsbOf (joinBytes m l) = l := by
  apply BitVec.eq_of_getLsbD_eq; intro k hk
  interval_cases k <;> simp [lsbOf, joinBytes]

@[simp] theorem joinBytes_split (w : Word) : joinBytes (msbOf w) (lsbOf w) = w := by
  apply BitVec.eq_of_getLsbD_eq; intro k hk
  interval_cases k <;> simp [msbOf, lsbOf, joinBytes]

/-- `crc8` of no byte, and of one byte more (R91). -/
@[simp] theorem crc8_nil : crc8 [] = crcStart := rfl

theorem crc8_concat (bytes : List Byte) (b : Byte) : crc8 (bytes ++ [b]) = crc8Update (crc8 bytes) b := by
  simp [crc8]

/-- The catalog holds exactly the indexes 0 to 16. -/
theorem catalogAt_isSome (i : Byte) : (catalogAt i).isSome = decide (i.toNat < 17) := by
  revert i; decide

@[simp] theorem catalogAt_index (c : WireCmd) : catalogAt (catalogIndex c) = some (catalogRow c) := by
  cases c <;> rfl

/-- `decode_word` answers the joined word exactly where the CRC byte matches (R110). -/
theorem decodeGroup_eq_some (m l c : Byte) (v : Word) :
    decodeGroup m l c = some v ↔ crc8 [m, l] = c ∧ joinBytes m l = v := by
  unfold decodeGroup; split <;> simp [*]

end Sys2Proof.Machine
end

