-- ==== Sys2Proof/Laws/State.lean ====
section
/-! SUPPORT. Every field after every named update of the block or of the host side, each true by unfolding, so that no later
proof unfolds an update. -/

namespace Sys2Proof.Machine

@[simp] theorem raiseError_crc (e : BlockError) (b : Block) : (raiseError e b).crc = b.crc := rfl
@[simp] theorem raiseError_txb (e : BlockError) (b : Block) : (raiseError e b).txb = b.txb := rfl
@[simp] theorem raiseError_txlen (e : BlockError) (b : Block) : (raiseError e b).txlen = b.txlen := rfl
@[simp] theorem raiseError_rxb (e : BlockError) (b : Block) : (raiseError e b).rxb = b.rxb := rfl
@[simp] theorem raiseError_rxlen (e : BlockError) (b : Block) : (raiseError e b).rxlen = b.rxlen := rfl
@[simp] theorem raiseError_w (e : BlockError) (b : Block) : (raiseError e b).w = b.w := rfl
@[simp] theorem raiseError_wv (e : BlockError) (b : Block) : (raiseError e b).wv = b.wv := rfl
@[simp] theorem raiseError_co2 (e : BlockError) (b : Block) : (raiseError e b).co2 = b.co2 := rfl
@[simp] theorem raiseError_temp (e : BlockError) (b : Block) : (raiseError e b).temp = b.temp := rfl
@[simp] theorem raiseError_rh (e : BlockError) (b : Block) : (raiseError e b).rh = b.rh := rfl
@[simp] theorem raiseError_mv (e : BlockError) (b : Block) : (raiseError e b).mv = b.mv := rfl
@[simp] theorem raiseError_catop (e : BlockError) (b : Block) : (raiseError e b).catop = b.catop := rfl
@[simp] theorem raiseError_respw (e : BlockError) (b : Block) : (raiseError e b).respw = b.respw := rfl
@[simp] theorem raiseError_hasarg (e : BlockError) (b : Block) : (raiseError e b).hasarg = b.hasarg := rfl
@[simp] theorem raiseError_catdly (e : BlockError) (b : Block) : (raiseError e b).catdly = b.catdly := rfl
@[simp] theorem raiseError_catv (e : BlockError) (b : Block) : (raiseError e b).catv = b.catv := rfl
@[simp] theorem raiseError_err (e : BlockError) (b : Block) : (raiseError e b).err = errorCode e := rfl
@[simp] theorem raiseError_sticky (e : BlockError) (b : Block) : (raiseError e b).sticky = true := rfl

@[simp] theorem putCommand_crc (v : Word) (b : Block) : (putCommand v b).crc = b.crc := rfl
@[simp] theorem putCommand_txb (v : Word) (b : Block) : (putCommand v b).txb = #v[msbOf v, lsbOf v, 0#8, 0#8, 0#8] := rfl
@[simp] theorem putCommand_txlen (v : Word) (b : Block) : (putCommand v b).txlen = 2#3 := rfl
@[simp] theorem putCommand_rxb (v : Word) (b : Block) : (putCommand v b).rxb = b.rxb := rfl
@[simp] theorem putCommand_rxlen (v : Word) (b : Block) : (putCommand v b).rxlen = b.rxlen := rfl
@[simp] theorem putCommand_w (v : Word) (b : Block) : (putCommand v b).w = b.w := rfl
@[simp] theorem putCommand_wv (v : Word) (b : Block) : (putCommand v b).wv = b.wv := rfl
@[simp] theorem putCommand_co2 (v : Word) (b : Block) : (putCommand v b).co2 = b.co2 := rfl
@[simp] theorem putCommand_temp (v : Word) (b : Block) : (putCommand v b).temp = b.temp := rfl
@[simp] theorem putCommand_rh (v : Word) (b : Block) : (putCommand v b).rh = b.rh := rfl
@[simp] theorem putCommand_mv (v : Word) (b : Block) : (putCommand v b).mv = b.mv := rfl
@[simp] theorem putCommand_catop (v : Word) (b : Block) : (putCommand v b).catop = b.catop := rfl
@[simp] theorem putCommand_respw (v : Word) (b : Block) : (putCommand v b).respw = b.respw := rfl
@[simp] theorem putCommand_hasarg (v : Word) (b : Block) : (putCommand v b).hasarg = b.hasarg := rfl
@[simp] theorem putCommand_catdly (v : Word) (b : Block) : (putCommand v b).catdly = b.catdly := rfl
@[simp] theorem putCommand_catv (v : Word) (b : Block) : (putCommand v b).catv = b.catv := rfl
@[simp] theorem putCommand_err (v : Word) (b : Block) : (putCommand v b).err = b.err := rfl
@[simp] theorem putCommand_sticky (v : Word) (b : Block) : (putCommand v b).sticky = b.sticky := rfl

@[simp] theorem putArgument_crc (v : Word) (c : Byte) (b : Block) : (putArgument v c b).crc = b.crc := rfl
@[simp] theorem putArgument_txb (v : Word) (c : Byte) (b : Block) : (putArgument v c b).txb = #v[b.txb[0], b.txb[1], msbOf v, lsbOf v, c] := rfl
@[simp] theorem putArgument_txlen (v : Word) (c : Byte) (b : Block) : (putArgument v c b).txlen = 5#3 := rfl
@[simp] theorem putArgument_rxb (v : Word) (c : Byte) (b : Block) : (putArgument v c b).rxb = b.rxb := rfl
@[simp] theorem putArgument_rxlen (v : Word) (c : Byte) (b : Block) : (putArgument v c b).rxlen = b.rxlen := rfl
@[simp] theorem putArgument_w (v : Word) (c : Byte) (b : Block) : (putArgument v c b).w = b.w := rfl
@[simp] theorem putArgument_wv (v : Word) (c : Byte) (b : Block) : (putArgument v c b).wv = b.wv := rfl
@[simp] theorem putArgument_co2 (v : Word) (c : Byte) (b : Block) : (putArgument v c b).co2 = b.co2 := rfl
@[simp] theorem putArgument_temp (v : Word) (c : Byte) (b : Block) : (putArgument v c b).temp = b.temp := rfl
@[simp] theorem putArgument_rh (v : Word) (c : Byte) (b : Block) : (putArgument v c b).rh = b.rh := rfl
@[simp] theorem putArgument_mv (v : Word) (c : Byte) (b : Block) : (putArgument v c b).mv = b.mv := rfl
@[simp] theorem putArgument_catop (v : Word) (c : Byte) (b : Block) : (putArgument v c b).catop = b.catop := rfl
@[simp] theorem putArgument_respw (v : Word) (c : Byte) (b : Block) : (putArgument v c b).respw = b.respw := rfl
@[simp] theorem putArgument_hasarg (v : Word) (c : Byte) (b : Block) : (putArgument v c b).hasarg = b.hasarg := rfl
@[simp] theorem putArgument_catdly (v : Word) (c : Byte) (b : Block) : (putArgument v c b).catdly = b.catdly := rfl
@[simp] theorem putArgument_catv (v : Word) (c : Byte) (b : Block) : (putArgument v c b).catv = b.catv := rfl
@[simp] theorem putArgument_err (v : Word) (c : Byte) (b : Block) : (putArgument v c b).err = b.err := rfl
@[simp] theorem putArgument_sticky (v : Word) (c : Byte) (b : Block) : (putArgument v c b).sticky = b.sticky := rfl

@[simp] theorem publishRow_crc (r : CatRow) (b : Block) : (publishRow r b).crc = b.crc := rfl
@[simp] theorem publishRow_txb (r : CatRow) (b : Block) : (publishRow r b).txb = b.txb := rfl
@[simp] theorem publishRow_txlen (r : CatRow) (b : Block) : (publishRow r b).txlen = b.txlen := rfl
@[simp] theorem publishRow_rxb (r : CatRow) (b : Block) : (publishRow r b).rxb = b.rxb := rfl
@[simp] theorem publishRow_rxlen (r : CatRow) (b : Block) : (publishRow r b).rxlen = b.rxlen := rfl
@[simp] theorem publishRow_w (r : CatRow) (b : Block) : (publishRow r b).w = b.w := rfl
@[simp] theorem publishRow_wv (r : CatRow) (b : Block) : (publishRow r b).wv = b.wv := rfl
@[simp] theorem publishRow_co2 (r : CatRow) (b : Block) : (publishRow r b).co2 = b.co2 := rfl
@[simp] theorem publishRow_temp (r : CatRow) (b : Block) : (publishRow r b).temp = b.temp := rfl
@[simp] theorem publishRow_rh (r : CatRow) (b : Block) : (publishRow r b).rh = b.rh := rfl
@[simp] theorem publishRow_mv (r : CatRow) (b : Block) : (publishRow r b).mv = b.mv := rfl
@[simp] theorem publishRow_catop (r : CatRow) (b : Block) : (publishRow r b).catop = r.opcode := rfl
@[simp] theorem publishRow_respw (r : CatRow) (b : Block) : (publishRow r b).respw = r.respWords := rfl
@[simp] theorem publishRow_hasarg (r : CatRow) (b : Block) : (publishRow r b).hasarg = r.hasArg := rfl
@[simp] theorem publishRow_catdly (r : CatRow) (b : Block) : (publishRow r b).catdly = r.delayMs := rfl
@[simp] theorem publishRow_catv (r : CatRow) (b : Block) : (publishRow r b).catv = true := rfl
@[simp] theorem publishRow_err (r : CatRow) (b : Block) : (publishRow r b).err = b.err := rfl
@[simp] theorem publishRow_sticky (r : CatRow) (b : Block) : (publishRow r b).sticky = b.sticky := rfl

@[simp] theorem pushByte_crc (v : Byte) (b : Block) : (pushByte v b).crc = b.crc := rfl
@[simp] theorem pushByte_txb (v : Byte) (b : Block) : (pushByte v b).txb = b.txb := rfl
@[simp] theorem pushByte_txlen (v : Byte) (b : Block) : (pushByte v b).txlen = b.txlen := rfl
@[simp] theorem pushByte_rxb (v : Byte) (b : Block) : (pushByte v b).rxb = b.rxb.setIfInBounds b.rxlen.toNat v := rfl
@[simp] theorem pushByte_rxlen (v : Byte) (b : Block) : (pushByte v b).rxlen = b.rxlen + 1#4 := rfl
@[simp] theorem pushByte_w (v : Byte) (b : Block) : (pushByte v b).w = b.w := rfl
@[simp] theorem pushByte_wv (v : Byte) (b : Block) : (pushByte v b).wv = b.wv := rfl
@[simp] theorem pushByte_co2 (v : Byte) (b : Block) : (pushByte v b).co2 = b.co2 := rfl
@[simp] theorem pushByte_temp (v : Byte) (b : Block) : (pushByte v b).temp = b.temp := rfl
@[simp] theorem pushByte_rh (v : Byte) (b : Block) : (pushByte v b).rh = b.rh := rfl
@[simp] theorem pushByte_mv (v : Byte) (b : Block) : (pushByte v b).mv = b.mv := rfl
@[simp] theorem pushByte_catop (v : Byte) (b : Block) : (pushByte v b).catop = b.catop := rfl
@[simp] theorem pushByte_respw (v : Byte) (b : Block) : (pushByte v b).respw = b.respw := rfl
@[simp] theorem pushByte_hasarg (v : Byte) (b : Block) : (pushByte v b).hasarg = b.hasarg := rfl
@[simp] theorem pushByte_catdly (v : Byte) (b : Block) : (pushByte v b).catdly = b.catdly := rfl
@[simp] theorem pushByte_catv (v : Byte) (b : Block) : (pushByte v b).catv = b.catv := rfl
@[simp] theorem pushByte_err (v : Byte) (b : Block) : (pushByte v b).err = b.err := rfl
@[simp] theorem pushByte_sticky (v : Byte) (b : Block) : (pushByte v b).sticky = b.sticky := rfl

@[simp] theorem emptyResponse_crc (b : Block) : (emptyResponse b).crc = b.crc := rfl
@[simp] theorem emptyResponse_txb (b : Block) : (emptyResponse b).txb = b.txb := rfl
@[simp] theorem emptyResponse_txlen (b : Block) : (emptyResponse b).txlen = b.txlen := rfl
@[simp] theorem emptyResponse_rxb (b : Block) : (emptyResponse b).rxb = #v[0#8, 0#8, 0#8, 0#8, 0#8, 0#8, 0#8, 0#8, 0#8] := rfl
@[simp] theorem emptyResponse_rxlen (b : Block) : (emptyResponse b).rxlen = 0#4 := rfl
@[simp] theorem emptyResponse_w (b : Block) : (emptyResponse b).w = b.w := rfl
@[simp] theorem emptyResponse_wv (b : Block) : (emptyResponse b).wv = b.wv := rfl
@[simp] theorem emptyResponse_co2 (b : Block) : (emptyResponse b).co2 = b.co2 := rfl
@[simp] theorem emptyResponse_temp (b : Block) : (emptyResponse b).temp = b.temp := rfl
@[simp] theorem emptyResponse_rh (b : Block) : (emptyResponse b).rh = b.rh := rfl
@[simp] theorem emptyResponse_mv (b : Block) : (emptyResponse b).mv = b.mv := rfl
@[simp] theorem emptyResponse_catop (b : Block) : (emptyResponse b).catop = b.catop := rfl
@[simp] theorem emptyResponse_respw (b : Block) : (emptyResponse b).respw = b.respw := rfl
@[simp] theorem emptyResponse_hasarg (b : Block) : (emptyResponse b).hasarg = b.hasarg := rfl
@[simp] theorem emptyResponse_catdly (b : Block) : (emptyResponse b).catdly = b.catdly := rfl
@[simp] theorem emptyResponse_catv (b : Block) : (emptyResponse b).catv = b.catv := rfl
@[simp] theorem emptyResponse_err (b : Block) : (emptyResponse b).err = b.err := rfl
@[simp] theorem emptyResponse_sticky (b : Block) : (emptyResponse b).sticky = b.sticky := rfl

@[simp] theorem startWord_crc (k : Nat) (b : Block) : (startWord k b).crc = b.crc := rfl
@[simp] theorem startWord_txb (k : Nat) (b : Block) : (startWord k b).txb = b.txb := rfl
@[simp] theorem startWord_txlen (k : Nat) (b : Block) : (startWord k b).txlen = b.txlen := rfl
@[simp] theorem startWord_rxb (k : Nat) (b : Block) : (startWord k b).rxb = b.rxb := rfl
@[simp] theorem startWord_rxlen (k : Nat) (b : Block) : (startWord k b).rxlen = b.rxlen := rfl
@[simp] theorem startWord_w (k : Nat) (b : Block) : (startWord k b).w = b.w := rfl
@[simp] theorem startWord_wv (k : Nat) (b : Block) : (startWord k b).wv = b.wv.setIfInBounds k false := rfl
@[simp] theorem startWord_co2 (k : Nat) (b : Block) : (startWord k b).co2 = b.co2 := rfl
@[simp] theorem startWord_temp (k : Nat) (b : Block) : (startWord k b).temp = b.temp := rfl
@[simp] theorem startWord_rh (k : Nat) (b : Block) : (startWord k b).rh = b.rh := rfl
@[simp] theorem startWord_mv (k : Nat) (b : Block) : (startWord k b).mv = false := rfl
@[simp] theorem startWord_catop (k : Nat) (b : Block) : (startWord k b).catop = b.catop := rfl
@[simp] theorem startWord_respw (k : Nat) (b : Block) : (startWord k b).respw = b.respw := rfl
@[simp] theorem startWord_hasarg (k : Nat) (b : Block) : (startWord k b).hasarg = b.hasarg := rfl
@[simp] theorem startWord_catdly (k : Nat) (b : Block) : (startWord k b).catdly = b.catdly := rfl
@[simp] theorem startWord_catv (k : Nat) (b : Block) : (startWord k b).catv = b.catv := rfl
@[simp] theorem startWord_err (k : Nat) (b : Block) : (startWord k b).err = b.err := rfl
@[simp] theorem startWord_sticky (k : Nat) (b : Block) : (startWord k b).sticky = b.sticky := rfl

@[simp] theorem startAll_crc (b : Block) : (startAll b).crc = b.crc := rfl
@[simp] theorem startAll_txb (b : Block) : (startAll b).txb = b.txb := rfl
@[simp] theorem startAll_txlen (b : Block) : (startAll b).txlen = b.txlen := rfl
@[simp] theorem startAll_rxb (b : Block) : (startAll b).rxb = b.rxb := rfl
@[simp] theorem startAll_rxlen (b : Block) : (startAll b).rxlen = b.rxlen := rfl
@[simp] theorem startAll_w (b : Block) : (startAll b).w = b.w := rfl
@[simp] theorem startAll_wv (b : Block) : (startAll b).wv = #v[false, false, false] := rfl
@[simp] theorem startAll_co2 (b : Block) : (startAll b).co2 = b.co2 := rfl
@[simp] theorem startAll_temp (b : Block) : (startAll b).temp = b.temp := rfl
@[simp] theorem startAll_rh (b : Block) : (startAll b).rh = b.rh := rfl
@[simp] theorem startAll_mv (b : Block) : (startAll b).mv = false := rfl
@[simp] theorem startAll_catop (b : Block) : (startAll b).catop = b.catop := rfl
@[simp] theorem startAll_respw (b : Block) : (startAll b).respw = b.respw := rfl
@[simp] theorem startAll_hasarg (b : Block) : (startAll b).hasarg = b.hasarg := rfl
@[simp] theorem startAll_catdly (b : Block) : (startAll b).catdly = b.catdly := rfl
@[simp] theorem startAll_catv (b : Block) : (startAll b).catv = b.catv := rfl
@[simp] theorem startAll_err (b : Block) : (startAll b).err = b.err := rfl
@[simp] theorem startAll_sticky (b : Block) : (startAll b).sticky = b.sticky := rfl

@[simp] theorem storeWord_crc (k : Nat) (v : Word) (b : Block) : (storeWord k v b).crc = b.crc := rfl
@[simp] theorem storeWord_txb (k : Nat) (v : Word) (b : Block) : (storeWord k v b).txb = b.txb := rfl
@[simp] theorem storeWord_txlen (k : Nat) (v : Word) (b : Block) : (storeWord k v b).txlen = b.txlen := rfl
@[simp] theorem storeWord_rxb (k : Nat) (v : Word) (b : Block) : (storeWord k v b).rxb = b.rxb := rfl
@[simp] theorem storeWord_rxlen (k : Nat) (v : Word) (b : Block) : (storeWord k v b).rxlen = b.rxlen := rfl
@[simp] theorem storeWord_w (k : Nat) (v : Word) (b : Block) : (storeWord k v b).w = b.w.setIfInBounds k v := rfl
@[simp] theorem storeWord_wv (k : Nat) (v : Word) (b : Block) : (storeWord k v b).wv = b.wv.setIfInBounds k true := rfl
@[simp] theorem storeWord_co2 (k : Nat) (v : Word) (b : Block) : (storeWord k v b).co2 = b.co2 := rfl
@[simp] theorem storeWord_temp (k : Nat) (v : Word) (b : Block) : (storeWord k v b).temp = b.temp := rfl
@[simp] theorem storeWord_rh (k : Nat) (v : Word) (b : Block) : (storeWord k v b).rh = b.rh := rfl
@[simp] theorem storeWord_mv (k : Nat) (v : Word) (b : Block) : (storeWord k v b).mv = b.mv := rfl
@[simp] theorem storeWord_catop (k : Nat) (v : Word) (b : Block) : (storeWord k v b).catop = b.catop := rfl
@[simp] theorem storeWord_respw (k : Nat) (v : Word) (b : Block) : (storeWord k v b).respw = b.respw := rfl
@[simp] theorem storeWord_hasarg (k : Nat) (v : Word) (b : Block) : (storeWord k v b).hasarg = b.hasarg := rfl
@[simp] theorem storeWord_catdly (k : Nat) (v : Word) (b : Block) : (storeWord k v b).catdly = b.catdly := rfl
@[simp] theorem storeWord_catv (k : Nat) (v : Word) (b : Block) : (storeWord k v b).catv = b.catv := rfl
@[simp] theorem storeWord_err (k : Nat) (v : Word) (b : Block) : (storeWord k v b).err = b.err := rfl
@[simp] theorem storeWord_sticky (k : Nat) (v : Word) (b : Block) : (storeWord k v b).sticky = b.sticky := rfl

@[simp] theorem recordCall_block (c : TransportCall) (s : State) : (recordCall c s).block = s.block := rfl
@[simp] theorem recordCall_pending (c : TransportCall) (s : State) : (recordCall c s).host.pending = s.host.pending := rfl
@[simp] theorem recordCall_readData (c : TransportCall) (s : State) : (recordCall c s).host.readData = s.host.readData := rfl
@[simp] theorem recordCall_wire (c : TransportCall) (s : State) : (recordCall c s).host.wire = s.host.wire ++ [c] := rfl
@[simp] theorem recordCall_replies (c : TransportCall) (s : State) : (recordCall c s).host.replies = s.host.replies.tail := rfl
@[simp] theorem recordCall_calls (c : TransportCall) (s : State) : (recordCall c s).host.calls = s.host.calls + 1 := rfl
@[simp] theorem recordCall_result (c : TransportCall) (s : State) : (recordCall c s).host.result = s.host.result := rfl
@[simp] theorem recordCall_mode (c : TransportCall) (s : State) : (recordCall c s).host.mode = s.host.mode := rfl
@[simp] theorem recordCall_shotDone (c : TransportCall) (s : State) : (recordCall c s).host.shotDone = s.host.shotDone := rfl
@[simp] theorem recordCall_stopOwed (c : TransportCall) (s : State) : (recordCall c s).host.stopOwed = s.host.stopOwed := rfl
@[simp] theorem recordCall_hung (c : TransportCall) (s : State) : (recordCall c s).host.hung = s.host.hung := rfl
@[simp] theorem recordCall_resets (c : TransportCall) (s : State) : (recordCall c s).host.resets = s.host.resets := rfl

@[simp] theorem sleepFor_block (ms : Word32) (s : State) : (sleepFor ms s).block = s.block := rfl
@[simp] theorem sleepFor_pending (ms : Word32) (s : State) : (sleepFor ms s).host.pending = s.host.pending := rfl
@[simp] theorem sleepFor_readData (ms : Word32) (s : State) : (sleepFor ms s).host.readData = s.host.readData := rfl
@[simp] theorem sleepFor_wire (ms : Word32) (s : State) : (sleepFor ms s).host.wire = s.host.wire ++ [.sleep ms] := rfl
@[simp] theorem sleepFor_replies (ms : Word32) (s : State) : (sleepFor ms s).host.replies = s.host.replies := rfl
@[simp] theorem sleepFor_calls (ms : Word32) (s : State) : (sleepFor ms s).host.calls = s.host.calls := rfl
@[simp] theorem sleepFor_result (ms : Word32) (s : State) : (sleepFor ms s).host.result = s.host.result := rfl
@[simp] theorem sleepFor_mode (ms : Word32) (s : State) : (sleepFor ms s).host.mode = s.host.mode := rfl
@[simp] theorem sleepFor_shotDone (ms : Word32) (s : State) : (sleepFor ms s).host.shotDone = s.host.shotDone := rfl
@[simp] theorem sleepFor_stopOwed (ms : Word32) (s : State) : (sleepFor ms s).host.stopOwed = s.host.stopOwed := rfl
@[simp] theorem sleepFor_hung (ms : Word32) (s : State) : (sleepFor ms s).host.hung = s.host.hung := rfl
@[simp] theorem sleepFor_resets (ms : Word32) (s : State) : (sleepFor ms s).host.resets = s.host.resets := rfl

@[simp] theorem giveResult_block (r : HostResult) (s : State) : (giveResult r s).block = s.block := rfl
@[simp] theorem giveResult_pending (r : HostResult) (s : State) : (giveResult r s).host.pending = s.host.pending := rfl
@[simp] theorem giveResult_readData (r : HostResult) (s : State) : (giveResult r s).host.readData = s.host.readData := rfl
@[simp] theorem giveResult_wire (r : HostResult) (s : State) : (giveResult r s).host.wire = s.host.wire := rfl
@[simp] theorem giveResult_replies (r : HostResult) (s : State) : (giveResult r s).host.replies = s.host.replies := rfl
@[simp] theorem giveResult_calls (r : HostResult) (s : State) : (giveResult r s).host.calls = s.host.calls := rfl
@[simp] theorem giveResult_result (r : HostResult) (s : State) : (giveResult r s).host.result = some r := rfl
@[simp] theorem giveResult_mode (r : HostResult) (s : State) : (giveResult r s).host.mode = s.host.mode := rfl
@[simp] theorem giveResult_shotDone (r : HostResult) (s : State) : (giveResult r s).host.shotDone = s.host.shotDone := rfl
@[simp] theorem giveResult_stopOwed (r : HostResult) (s : State) : (giveResult r s).host.stopOwed = s.host.stopOwed := rfl
@[simp] theorem giveResult_hung (r : HostResult) (s : State) : (giveResult r s).host.hung = s.host.hung := rfl
@[simp] theorem giveResult_resets (r : HostResult) (s : State) : (giveResult r s).host.resets = s.host.resets := rfl

@[simp] theorem hangHost_block (s : State) : (hangHost s).block = s.block := rfl
@[simp] theorem hangHost_pending (s : State) : (hangHost s).host.pending = s.host.pending := rfl
@[simp] theorem hangHost_readData (s : State) : (hangHost s).host.readData = s.host.readData := rfl
@[simp] theorem hangHost_wire (s : State) : (hangHost s).host.wire = s.host.wire := rfl
@[simp] theorem hangHost_replies (s : State) : (hangHost s).host.replies = s.host.replies := rfl
@[simp] theorem hangHost_calls (s : State) : (hangHost s).host.calls = s.host.calls := rfl
@[simp] theorem hangHost_result (s : State) : (hangHost s).host.result = none := rfl
@[simp] theorem hangHost_mode (s : State) : (hangHost s).host.mode = s.host.mode := rfl
@[simp] theorem hangHost_shotDone (s : State) : (hangHost s).host.shotDone = s.host.shotDone := rfl
@[simp] theorem hangHost_stopOwed (s : State) : (hangHost s).host.stopOwed = s.host.stopOwed := rfl
@[simp] theorem hangHost_hung (s : State) : (hangHost s).host.hung = true := rfl
@[simp] theorem hangHost_resets (s : State) : (hangHost s).host.resets = s.host.resets := rfl

@[simp] theorem pushAction_block (a : HostAction) (s : State) : (pushAction a s).block = s.block := rfl
@[simp] theorem pushAction_pending (a : HostAction) (s : State) : (pushAction a s).host.pending = a :: s.host.pending := rfl
@[simp] theorem pushAction_readData (a : HostAction) (s : State) : (pushAction a s).host.readData = s.host.readData := rfl
@[simp] theorem pushAction_wire (a : HostAction) (s : State) : (pushAction a s).host.wire = s.host.wire := rfl
@[simp] theorem pushAction_replies (a : HostAction) (s : State) : (pushAction a s).host.replies = s.host.replies := rfl
@[simp] theorem pushAction_calls (a : HostAction) (s : State) : (pushAction a s).host.calls = s.host.calls := rfl
@[simp] theorem pushAction_result (a : HostAction) (s : State) : (pushAction a s).host.result = s.host.result := rfl
@[simp] theorem pushAction_mode (a : HostAction) (s : State) : (pushAction a s).host.mode = s.host.mode := rfl
@[simp] theorem pushAction_shotDone (a : HostAction) (s : State) : (pushAction a s).host.shotDone = s.host.shotDone := rfl
@[simp] theorem pushAction_stopOwed (a : HostAction) (s : State) : (pushAction a s).host.stopOwed = s.host.stopOwed := rfl
@[simp] theorem pushAction_hung (a : HostAction) (s : State) : (pushAction a s).host.hung = false := rfl
@[simp] theorem pushAction_resets (a : HostAction) (s : State) : (pushAction a s).host.resets = false :: s.host.resets := rfl

@[simp] theorem operate_host (op : Block → OpEnd) (s : State) : (operate op s).host = s.host := rfl
@[simp] theorem operate_block (op : Block → OpEnd) (s : State) : (operate op s).block = finish (op s.block) := rfl
@[simp] theorem finish_done (b : Block) : finish (.done b) = { b with err := 0#3 } := rfl
@[simp] theorem finish_raised (e : BlockError) (b : Block) : finish (.raised e b) = raiseError e b := rfl

/-- Noting the mode touches no register of the block. -/
@[simp] theorem noteMode_block (m : Option SensorMode) (shot owed : Bool) (s : State) :
    (noteMode m shot owed s).block = s.block := by
  unfold noteMode; split <;> rfl

/-- Noting the mode touches nothing that decides what the transport answers, or when the reset event comes. -/
@[simp] theorem noteMode_wire (m : Option SensorMode) (shot owed : Bool) (s : State) :
    (noteMode m shot owed s).host.wire = s.host.wire := by
  unfold noteMode; split <;> rfl
@[simp] theorem noteMode_replies (m : Option SensorMode) (shot owed : Bool) (s : State) :
    (noteMode m shot owed s).host.replies = s.host.replies := by
  unfold noteMode; split <;> rfl
@[simp] theorem noteMode_resets (m : Option SensorMode) (shot owed : Bool) (s : State) :
    (noteMode m shot owed s).host.resets = s.host.resets := by
  unfold noteMode; split <;> rfl

/-- Where no reset event is listed, the moment before an access changes nothing. -/
theorem accessPoint_quiet (s : State) (h : s.host.resets = []) : accessPoint s = s := by
  obtain ⟨b, hst⟩ := s
  obtain ⟨_, _, _, _, _, _, _, _, _, _, _⟩ := hst
  cases h; rfl

end Sys2Proof.Machine
end

