-- ==== Sys2Proof/Laws/Vectors.lean ====
section
/-! SUPPORT. The three-entry vectors of the words and their valid bits: writing one entry, spelled out entry by entry. -/

namespace Sys2Proof.Machine

theorem vector3_eta {α : Type} (v : Vector α 3) : v = #v[v[0], v[1], v[2]] := by
  ext i hi
  interval_cases i <;> rfl

theorem vector3_set0 {α : Type} (v : Vector α 3) (x : α) : v.setIfInBounds 0 x = #v[x, v[1], v[2]] := by
  ext i hi
  interval_cases i <;> simp

theorem vector3_set1 {α : Type} (v : Vector α 3) (x : α) : v.setIfInBounds 1 x = #v[v[0], x, v[2]] := by
  ext i hi
  interval_cases i <;> simp

theorem vector3_set2 {α : Type} (v : Vector α 3) (x : α) : v.setIfInBounds 2 x = #v[v[0], v[1], x] := by
  ext i hi
  interval_cases i <;> simp

end Sys2Proof.Machine
end

