-- ==== Sys2Proof/Laws/Ops.lean ====
section
/-! SUPPORT. What each operation of the block can do, said once: the conditions on which it ends with `OK` or raises, and the
block it leaves. Later proofs cite these cases and do not unfold the operations. -/

namespace Sys2Proof.Machine

/-- `ENC.ARG` appends to a 2-byte frame, or raises `SEQ` (R103). -/
theorem opEncArg_cases (v : Word) (b : Block) :
    (b.txlen = 2#3 ∧ opEncArg v b = .done (putArgument v (crcOfWord v) { b with crc := crcOfWord v })) ∨
    (b.txlen ≠ 2#3 ∧ opEncArg v b = .raised .seq b) := by
  unfold opEncArg; split <;> simp [*]

/-- `ENC.CAT` selects a row, or raises `RANGE` (R104). -/
theorem opEncCat_cases (i : Byte) (b : Block) :
    (∃ row, catalogAt i = some row ∧ opEncCat i b = .done (putCommand row.opcode (publishRow row b))) ∨
    (16 < i.toNat ∧ opEncCat i b = .raised .range b) := by
  have h := catalogAt_isSome i
  unfold opEncCat
  cases hc : catalogAt i with
  | none => rw [hc] at h; right; simp at h; exact ⟨h, rfl⟩
  | some row => left; exact ⟨row, rfl, rfl⟩

/-- `ENC.CAT` of a command's own index selects its row (R105). -/
@[simp] theorem opEncCat_index (c : WireCmd) (b : Block) :
    opEncCat (catalogIndex c) b = .done (putCommand (catalogRow c).opcode (publishRow (catalogRow c) b)) := by
  simp [opEncCat]

/-- `RX.BYTE` pushes, or raises `LENGTH` on a full buffer (R113). -/
theorem opRxByte_cases (v : Byte) (b : Block) :
    (b.rxlen.toNat < 9 ∧ opRxByte v b = .done (pushByte v b)) ∨
    (9 ≤ b.rxlen.toNat ∧ opRxByte v b = .raised .length b) := by
  unfold opRxByte; split
  · right; exact ⟨by assumption, rfl⟩
  · left; exact ⟨by omega, rfl⟩

/-- `DEC.WORD k` raises `RANGE`, `LENGTH` or `CRC_MISMATCH`, tested in that order, or stores the word (R114, R144). -/
theorem opDecWord_cases (k : Byte) (b : Block) :
    (2 < k.toNat ∧ opDecWord k b = .raised .range b) ∨
    (k.toNat ≤ 2 ∧ b.rxlen.toNat < 3 * k.toNat + 3 ∧ opDecWord k b = .raised .length b) ∨
    (k.toNat ≤ 2 ∧ 3 * k.toNat + 3 ≤ b.rxlen.toNat ∧ groupCrc b k.toNat ≠ groupReceived b k.toNat ∧
      opDecWord k b = .raised .crcMismatch { startWord k.toNat b with crc := groupCrc b k.toNat }) ∨
    (k.toNat ≤ 2 ∧ 3 * k.toNat + 3 ≤ b.rxlen.toNat ∧ groupCrc b k.toNat = groupReceived b k.toNat ∧
      opDecWord k b = .done (storeWord k.toNat (groupWord b k.toNat)
        { startWord k.toNat b with crc := groupCrc b k.toNat })) := by
  unfold opDecWord
  by_cases hk : 2 < k.toNat
  · simp [hk]
  · by_cases hl : b.rxlen.toNat < 3 * k.toNat + 3
    · right; left; exact ⟨by omega, hl, by simp [hk, hl]⟩
    · by_cases hc : groupCrc b k.toNat = groupReceived b k.toNat
      · right; right; right; refine ⟨by omega, by omega, hc, ?_⟩; simp [hk, hl, hc]
      · right; right; left; refine ⟨by omega, by omega, hc, ?_⟩; simp [hk, hl, hc]

/-- `DEC.ALL n` raises `RANGE`, `LENGTH` or `CRC_MISMATCH`, tested in that order, or stores every word (R115, R144). -/
theorem opDecAll_cases (n : Byte) (b : Block) :
    ((n ≠ 1#8 ∧ n ≠ 3#8) ∧ opDecAll n b = .raised .range b) ∨
    ((n = 1#8 ∨ n = 3#8) ∧ b.rxlen.toNat ≠ 3 * n.toNat ∧ opDecAll n b = .raised .length b) ∨
    ((n = 1#8 ∨ n = 3#8) ∧ b.rxlen.toNat = 3 * n.toNat ∧ (scanGroups b n.toNat 0 b.crc).2 = false ∧
      opDecAll n b = .raised .crcMismatch { startAll b with crc := (scanGroups b n.toNat 0 b.crc).1 }) ∨
    ((n = 1#8 ∨ n = 3#8) ∧ b.rxlen.toNat = 3 * n.toNat ∧ (scanGroups b n.toNat 0 b.crc).2 = true ∧
      opDecAll n b = .done (storeGroups b n.toNat 0
        { startAll b with crc := (scanGroups b n.toNat 0 b.crc).1 })) := by
  unfold opDecAll
  by_cases hr : n ≠ 1#8 ∧ n ≠ 3#8
  · left; simp [hr]
  · have hn : n = 1#8 ∨ n = 3#8 := by tauto
    by_cases hl : b.rxlen.toNat = 3 * n.toNat
    · cases hs : (scanGroups b n.toNat 0 b.crc).2
      · right; right; left; exact ⟨hn, hl, rfl, by simp [hr, hl, hs]⟩
      · right; right; right; exact ⟨hn, hl, rfl, by simp [hr, hl, hs]⟩
    · right; left; exact ⟨hn, hl, by simp [hr, hl]⟩

/-- `CVT.MEAS` converts three valid words, or raises `SEQ` (R128). -/
theorem opCvtMeas_cases (b : Block) :
    (allWordsValid b = true ∧ opCvtMeas b = .done { b with
      co2 := b.w[0], temp := tempF32 b.w[1], rh := rhF32 b.w[2], mv := true }) ∨
    (allWordsValid b = false ∧ opCvtMeas b = .raised .seq b) := by
  unfold opCvtMeas
  cases h : allWordsValid b <;> simp [Config.measArith, convertTemp, convertRh]

/-- A scan ends well exactly where every group's CRC byte matches (R111). -/
theorem scanGroups_ok (b : Block) (n k : Nat) (c : Byte) :
    (scanGroups b n k c).2 = true ↔ ∀ j, k ≤ j → j < k + n → groupCrc b j = groupReceived b j := by
  induction n generalizing k c with
  | zero => simp [scanGroups]; intro j h1 h2; omega
  | succ n ih =>
    unfold scanGroups
    by_cases h : groupCrc b k = groupReceived b k
    · rw [if_pos h, ih]
      constructor
      · intro hall j h1 h2
        rcases Nat.eq_or_lt_of_le h1 with rfl | h1
        · exact h
        · exact hall j h1 (by omega)
      · intro hall j h1 h2; exact hall j (by omega) (by omega)
    · rw [if_neg h]
      simp only [Bool.false_eq_true, false_iff, not_forall]
      exact ⟨k, le_refl k, by omega, h⟩

/-- Storing the words of a response writes `W` and `WV` and nothing else. -/
theorem storeGroups_frame (src : Block) (n k : Nat) (b : Block) :
    storeGroups src n k b = { b with w := (storeGroups src n k b).w, wv := (storeGroups src n k b).wv } := by
  induction n generalizing k b with
  | zero => rfl
  | succ n ih => simp only [storeGroups]; rw [ih]; rfl

end Sys2Proof.Machine
end

