-- ==== Sys2Proof/Laws/Exchange.lean ====
section
/-! SUPPORT. What a step can do to the block: nothing but a chain of the block's own operations, or the reset event. An
invariant of the block is proved for those and cited through `step_reaches`. -/

namespace Sys2Proof.Machine

/-- One change of the block: an operation of R64 with its common tail, an illegal word, or reset. -/
inductive BlockStep : Block → Block → Prop where
  | nop (b : Block) : BlockStep b (finish (opNop b))
  | clr (b : Block) : BlockStep b (finish (opClr b))
  | crcInit (b : Block) : BlockStep b (finish (opCrcInit b))
  | crcByte (v : Byte) (b : Block) : BlockStep b (finish (opCrcByte v b))
  | crcWord (v : Word) (b : Block) : BlockStep b (finish (opCrcWord v b))
  | encCmd (v : Word) (b : Block) : BlockStep b (finish (opEncCmd v b))
  | encArg (v : Word) (b : Block) : BlockStep b (finish (opEncArg v b))
  | encCat (i : Byte) (b : Block) : BlockStep b (finish (opEncCat i b))
  | rxClr (b : Block) : BlockStep b (finish (opRxClr b))
  | rxByte (v : Byte) (b : Block) : BlockStep b (finish (opRxByte v b))
  | decWord (k : Byte) (b : Block) : BlockStep b (finish (opDecWord k b))
  | decAll (n : Byte) (b : Block) : BlockStep b (finish (opDecAll n b))
  | cvtMeas (b : Block) : BlockStep b (finish (opCvtMeas b))
  | illegal (b : Block) : BlockStep b (finish (opIllegal b))
  | reset (b : Block) : BlockStep b Block.reset

/-- A chain of changes of the block. -/
abbrev Reaches : Block → Block → Prop := Relation.ReflTransGen BlockStep

/-- A predicate every change keeps, every chain keeps. -/
theorem Reaches.keeps {P : Block → Prop} (hP : ∀ b b', BlockStep b b' → P b → P b') {b b' : Block}
    (h : Reaches b b') (hb : P b) : P b' := by
  induction h with
  | refl => exact hb
  | tail _ hstep ih => exact hP _ _ hstep ih

/-- The state a part of a call ends in. -/
def endState {α : Type} : Exchange α → State
  | .ok _ s => s
  | .error _ s => s
  | .noReturn s => s

/-- The moment before an access is the reset event, or nothing. -/
theorem accessPoint_reaches (s : State) : Reaches s.block (accessPoint s).block := by
  unfold accessPoint
  cases resetDue s.host
  · exact .refl
  · exact .single (.reset _)

/-- A chain goes on through `andThen`. -/
theorem andThen_reaches {α β : Type} {b : Block} (x : Exchange α) (f : α → State → Exchange β)
    (hx : Reaches b (endState x).block) (hf : ∀ v s, Reaches s.block (endState (f v s)).block) :
    Reaches b (endState (andThen x f)).block := by
  cases x with
  | ok v s => exact hx.trans (hf v s)
  | error e s => exact hx
  | noReturn s => exact hx

theorem readTx_reaches (is : List Nat) (s : State) : Reaches s.block (readTx is s).2.block := by
  induction is generalizing s with
  | nil => exact .refl
  | cons i rest ih => exact (accessPoint_reaches s).trans (ih (accessPoint s))

theorem readFrame_reaches (s : State) : Reaches s.block (readFrame s).2.block :=
  (accessPoint_reaches s).trans (readTx_reaches _ _)

/-- Reading registers touches nothing of the host but the list of reset events. -/
theorem readTx_host (is : List Nat) (s : State) :
    (readTx is s).2.host = { s.host with resets := (readTx is s).2.host.resets } := by
  induction is generalizing s with
  | nil => rfl
  | cons i rest ih => exact (ih (accessPoint s)).trans rfl

theorem readFrame_host (s : State) : (readFrame s).2.host = { s.host with resets := (readFrame s).2.host.resets } :=
  (readTx_host _ (accessPoint s)).trans rfl

/-- Where no reset event is listed, the host reads the registers as they stand. -/
theorem readTx_quiet (is : List Nat) (s : State) (h : s.host.resets = []) : readTx is s = (is.map (txAt s.block), s) := by
  induction is with
  | nil => rfl
  | cons i rest ih => simp only [readTx, accessPoint_quiet s h, ih, List.map_cons]

/-- Where no reset event is listed, the host reads the frame in `TXB`. -/
theorem readFrame_quiet (s : State) (h : s.host.resets = []) : readFrame s = (frameBytes s.block, s) := by
  have e : [0, 1, 2, 3, 4].map (txAt s.block) = s.block.txb.toList := by
    apply List.ext_getElem <;> simp [txAt]
    intro i hi
    interval_cases i <;> simp
  unfold readFrame
  rw [accessPoint_quiet s h, readTx_quiet _ s h, List.map_take, e]
  rfl

/-- `writeBytes` makes one transport call and gives its outcome. -/
theorem writeBytes_cases (bytes : List Byte) (s : State) :
    let s' := recordCall (.write Config.busAddr bytes) s
    (∃ b, nextReply s.host = .ok b ∧ writeBytes bytes s = .ok () s') ∨
    (nextReply s.host = .error ∧ writeBytes bytes s = .error .ioWrite s') ∨
    (nextReply s.host = .noReturn ∧ writeBytes bytes s = .noReturn s') := by
  unfold writeBytes
  cases h : nextReply s.host <;> simp

/-- Reading `STATUS` goes on only with `ERR = OK` and the valid bits asked for; else the call ends with an error. In each
case the state is that of the moment of the read. -/
theorem checkStatus_cases (valid : Block → Bool) (s : State) :
    ((accessPoint s).block.err = 0#3 ∧ valid (accessPoint s).block = true ∧ checkStatus valid s = .ok () (accessPoint s)) ∨
    ((accessPoint s).block.err = errorCode .crcMismatch ∧ checkStatus valid s = .error .checksum (accessPoint s)) ∨
    ((accessPoint s).block.err ≠ errorCode .crcMismatch ∧
      ((accessPoint s).block.err ≠ 0#3 ∨ valid (accessPoint s).block = false) ∧
      checkStatus valid s = .error (Config.statusErrorKind (statusWord (accessPoint s).block)) (accessPoint s)) := by
  unfold checkStatus
  by_cases h1 : (accessPoint s).block.err = errorCode .crcMismatch
  · simp [h1]
  · by_cases h0 : (accessPoint s).block.err = 0#3 <;> cases hv : valid (accessPoint s).block <;>
      simp_all [errorCode]

/-- Where no reset event is listed, a good `STATUS` changes nothing. -/
theorem checkStatus_quiet (valid : Block → Bool) (s : State) (h : s.host.resets = []) (he : s.block.err = 0#3)
    (hv : valid s.block = true) : checkStatus valid s = .ok () s := by
  unfold checkStatus
  simp [accessPoint_quiet s h, he, hv, errorCode]

/-- `readBytes` makes one transport call; it succeeds only with the length requested. -/
theorem readBytes_cases (len : Nat) (s : State) :
    let s' := recordCall (.read Config.busAddr len) s
    (∃ bytes, nextReply s.host = .ok bytes ∧ bytes.length = len ∧ readBytes len s = .ok bytes s') ∨
    (readBytes len s = .error .ioRead s' ∧
      (nextReply s.host = .error ∨ ∃ bytes, nextReply s.host = .ok bytes ∧ bytes.length ≠ len)) ∨
    (nextReply s.host = .noReturn ∧ readBytes len s = .noReturn s') := by
  unfold readBytes
  cases h : nextReply s.host with
  | ok bytes => by_cases hl : bytes.length = len <;> simp [hl]
  | error => simp
  | noReturn => simp

theorem writeBytes_block (bytes : List Byte) (s : State) : (endState (writeBytes bytes s)).block = s.block := by
  rcases writeBytes_cases bytes s with ⟨_, _, h⟩ | ⟨_, h⟩ | ⟨_, h⟩ <;> rw [h] <;> rfl

theorem writeFrame_reaches (s : State) : Reaches s.block (endState (writeFrame s)).block := by
  unfold writeFrame
  rw [writeBytes_block]
  exact readFrame_reaches s

theorem checkStatus_reaches (valid : Block → Bool) (s : State) : Reaches s.block (endState (checkStatus valid s)).block := by
  rcases checkStatus_cases valid s with ⟨_, _, h⟩ | ⟨_, h⟩ | ⟨_, _, h⟩ <;> rw [h] <;> exact accessPoint_reaches s

theorem sendFrame_reaches (s : State) : Reaches s.block (endState (sendFrame s)).block := by
  refine andThen_reaches _ _ ((readFrame_reaches s).trans (checkStatus_reaches _ _)) fun _ s' => ?_
  rw [writeBytes_block]

theorem readBytes_block (len : Nat) (s : State) : (endState (readBytes len s)).block = s.block := by
  rcases readBytes_cases len s with ⟨_, _, _, h⟩ | ⟨h, _⟩ | ⟨_, h⟩ <;> rw [h] <;> rfl

theorem sleepDelay_block (c : WireCmd) (s : State) : (sleepDelay c s).block = s.block := by
  unfold sleepDelay; split <;> rfl

/-- Every catalog row has a delay, so the host sleeps after every write (R172). -/
theorem sleepDelay_eq (c : WireCmd) (s : State) : sleepDelay c s = sleepFor (catalogRow c).delayMs s := by
  cases c <;> rfl

theorem sendOnly_reaches (c : WireCmd) (s : State) : Reaches s.block (endState (sendOnly c s)).block := by
  refine andThen_reaches _ _ (sendFrame_reaches s) fun _ s' => ?_
  simp only [endState, sleepDelay_block]; exact .refl

theorem sendAndRead_reaches (c : WireCmd) (s : State) : Reaches s.block (endState (sendAndRead c s)).block := by
  refine andThen_reaches _ _ (sendOnly_reaches c s) fun _ s' => ?_
  rw [readBytes_block]

/-- An operation of the block inside an exchange. -/
theorem hostOperate_reaches (op : Block → OpEnd) (s : State) (h : ∀ b, BlockStep b (finish (op b))) :
    Reaches s.block (hostOperate op s).block :=
  .tail (accessPoint_reaches s) (h _)

theorem loadBytes_reaches (bytes : List Byte) (s : State) : Reaches s.block (loadBytes bytes s).block := by
  induction bytes generalizing s with
  | nil => exact .refl
  | cons v rest ih => exact (hostOperate_reaches _ s (.rxByte v)).trans (ih (hostOperate (opRxByte v) s))

/-- Loading bytes touches nothing of the host but the list of reset events. -/
theorem loadBytes_host (bytes : List Byte) (s : State) :
    (loadBytes bytes s).host = { s.host with resets := (loadBytes bytes s).host.resets } := by
  induction bytes generalizing s with
  | nil => rfl
  | cons v rest ih => exact (ih (hostOperate (opRxByte v) s)).trans rfl

theorem loadResponse_reaches (bytes : List Byte) (s : State) : Reaches s.block (loadResponse bytes s).block :=
  (hostOperate_reaches _ s .rxClr).trans (loadBytes_reaches bytes (hostOperate opRxClr s))

theorem encodeCommand_reaches (c : WireCmd) (s : State) : Reaches s.block (encodeCommand c s).block :=
  hostOperate_reaches _ s (.encCat (catalogIndex c))

theorem encodeWithArgument_reaches (c : WireCmd) (arg : Word) (s : State) :
    Reaches s.block (encodeWithArgument c arg s).block :=
  (encodeCommand_reaches c s).trans (hostOperate_reaches _ _ (.encArg arg))

theorem decodeResponse_reaches (c : WireCmd) (s : State) : Reaches s.block (endState (decodeResponse c s)).block :=
  (hostOperate_reaches _ s (.decAll ((catalogRow c).respWords.setWidth 8))).trans (checkStatus_reaches _ _)

theorem exchangeWithResponse_reaches (c : WireCmd) (s : State) :
    Reaches s.block (endState (exchangeWithResponse c s)).block :=
  andThen_reaches _ _ ((encodeCommand_reaches c s).trans (sendAndRead_reaches c _)) fun bytes s' =>
    (loadResponse_reaches bytes s').trans (decodeResponse_reaches c _)

theorem plainBody_reaches (c : WireCmd) (s : State) : Reaches s.block (endState (plainBody c s)).block :=
  andThen_reaches _ _ ((encodeCommand_reaches c s).trans (sendOnly_reaches c _)) fun _ _ => .refl

theorem argumentBody_reaches (c : WireCmd) (arg : Word) (s : State) :
    Reaches s.block (endState (argumentBody c arg s)).block :=
  andThen_reaches _ _ ((encodeWithArgument_reaches c arg s).trans (sendOnly_reaches c _)) fun _ _ => .refl

theorem trusted_reaches (valid : Block → Bool) (view : State → HostValue × State) (s : State)
    (hv : ∀ t, Reaches t.block (view t).2.block) : Reaches s.block (endState (trusted valid view s)).block :=
  andThen_reaches _ _ ((hv s).trans (checkStatus_reaches _ _)) fun _ _ => .refl

theorem responseBody_reaches (c : WireCmd) (valid : Block → Bool) (view : State → HostValue × State) (s : State)
    (hv : ∀ t, Reaches t.block (view t).2.block) : Reaches s.block (endState (responseBody c valid view s)).block :=
  andThen_reaches _ _ (exchangeWithResponse_reaches c s) fun _ s' => trusted_reaches valid view s' hv

theorem oneWordView_reaches (f : Word → HostValue) (s : State) : Reaches s.block (oneWordView f s).2.block :=
  accessPoint_reaches s

theorem serialView_reaches (s : State) : Reaches s.block (serialView s).2.block :=
  ((accessPoint_reaches s).trans (accessPoint_reaches _)).trans (accessPoint_reaches _)

theorem measurementView_reaches (s : State) : Reaches s.block (measurementView s).2.block :=
  (((hostOperate_reaches _ s .cvtMeas).trans (accessPoint_reaches _)).trans (accessPoint_reaches _)).trans
    (accessPoint_reaches _)

theorem measurementBody_reaches (s : State) : Reaches s.block (endState (measurementBody s)).block :=
  responseBody_reaches _ _ _ s measurementView_reaches

theorem leadingTo_block {α : Type} (m : SensorMode) (keeps : Bool) (x : Exchange α) :
    (endState (leadingTo m keeps x)).block = (endState x).block := by
  cases x <;> simp [leadingTo, endState]

theorem asWakeupError_block {α : Type} (x : Exchange α) : (endState (asWakeupError x)).block = (endState x).block := by
  cases x <;> rfl

theorem singleShotBody_reaches (s : State) : Reaches s.block (endState (singleShotBody s)).block := by
  refine andThen_reaches _ _ ?_ fun _ s1 => andThen_reaches _ _ ?_ fun _ s2 => ?_
  · rw [leadingTo_block]; exact (encodeCommand_reaches _ s).trans (sendOnly_reaches _ _)
  · rw [asWakeupError_block]; exact (encodeCommand_reaches _ s1).trans (sendOnly_reaches _ _)
  · have h := measurementBody_reaches (noteMode (some .idle) true s2.host.stopOwed s2)
    rwa [noteMode_block] at h

theorem hostCall_reaches (c : WireCmd) (body : State → Exchange HostValue) (s : State)
    (h : Reaches s.block (endState (body s)).block) : Reaches s.block (hostCall c body s).block := by
  unfold hostCall
  split
  · cases hb : body s <;> rw [hb] at h <;> exact h
  · exact .refl

/-- An instruction changes the block only through a chain of the block's operations, and of the resets that fall between
them inside an exchange. -/
theorem exec_reaches (i : Instr) (s t : State) (h : exec i s = .next t) : Reaches s.block t.block := by
  cases i <;> (injection h with h; subst h)
  case nop => exact .single (.nop _)
  case clr => exact .single (.clr _)
  case crcInit => exact .single (.crcInit _)
  case crcByte b => exact .single (.crcByte b _)
  case crcWord w => exact .single (.crcWord w _)
  case encCmd v => exact .single (.encCmd v _)
  case encArg v => exact .single (.encArg v _)
  case encCat i => exact .single (.encCat i _)
  case rxClr => exact .single (.rxClr _)
  case rxByte b => exact .single (.rxByte b _)
  case decWord k => exact .single (.decWord k _)
  case decAll n => exact .single (.decAll n _)
  case cvtMeas => exact .single (.cvtMeas _)
  case reinit => exact hostCall_reaches _ _ _ (plainBody_reaches _ _)
  case persistSettings => exact hostCall_reaches _ _ _ (plainBody_reaches _ _)
  case wakeup => exact hostCall_reaches _ _ _ (by rw [leadingTo_block]; exact plainBody_reaches _ _)
  case startPeriodicMeasurement => exact hostCall_reaches _ _ _ (by rw [leadingTo_block]; exact plainBody_reaches _ _)
  case stopPeriodicMeasurement => exact hostCall_reaches _ _ _ (by rw [leadingTo_block]; exact plainBody_reaches _ _)
  case getSerialNumber => exact hostCall_reaches _ _ _ (responseBody_reaches _ _ _ _ serialView_reaches)
  case getDataReadyStatus => exact hostCall_reaches _ _ _ (responseBody_reaches _ _ _ _ (oneWordView_reaches _))
  case getSensorAltitude => exact hostCall_reaches _ _ _ (responseBody_reaches _ _ _ _ (oneWordView_reaches _))
  case getAmbientPressure => exact hostCall_reaches _ _ _ (responseBody_reaches _ _ _ _ (oneWordView_reaches _))
  case getAscEnabled => exact hostCall_reaches _ _ _ (responseBody_reaches _ _ _ _ (oneWordView_reaches _))
  case getAscTarget => exact hostCall_reaches _ _ _ (responseBody_reaches _ _ _ _ (oneWordView_reaches _))
  case readMeasurement => exact hostCall_reaches _ _ _ (measurementBody_reaches _)
  case singleShotMeasurement => exact hostCall_reaches _ _ _ (singleShotBody_reaches _)
  case setSensorAltitude arg _ => exact hostCall_reaches _ _ _ (argumentBody_reaches _ arg _)
  case setAmbientPressure arg _ => exact hostCall_reaches _ _ _ (argumentBody_reaches _ arg _)
  case setAscEnabled arg _ => exact hostCall_reaches _ _ _ (argumentBody_reaches _ arg _)
  case setAscTarget arg _ => exact hostCall_reaches _ _ _ (argumentBody_reaches _ arg _)

theorem endPart_reaches (x : Exchange Unit) (s t : State) (hx : Reaches s.block (endState x).block)
    (h : endPart x = .next t) : Reaches s.block t.block := by
  cases x <;> (injection h with h; subst h; exact hx)

/-- A host action changes the block only through a chain of the block's operations and resets. -/
theorem perform_reaches (a : HostAction) (s t : State) (h : perform a s = .next t) : Reaches s.block t.block := by
  cases a with
  | regRead n =>
    have h : performRead n s = .next t := h
    unfold performRead at h
    split at h
    · injection h with h; subst h; exact .refl
    · exact absurd h (by simp)
  | regWrite n v =>
    have h : performWrite n v s = .next t := h
    unfold performWrite at h
    split at h
    · unfold performWord at h
      split at h
      · exact exec_reaches _ _ _ h
      · injection h with h; subst h; exact .single (.illegal _)
    · exact absurd h (by simp)
  | command bytes =>
    have h : performFrame bytes s = .next t := h
    unfold performFrame at h
    split at h
    · exact exec_reaches _ _ _ h
    · exact absurd h (by simp)
  | api call => exact exec_reaches _ _ _ h
  | send =>
    exact endPart_reaches _ s t (writeFrame_reaches s) h
  | sleep ms => injection h with h; subst h; exact .refl
  | receive len =>
    refine endPart_reaches _ s t ?_ h
    refine andThen_reaches _ _ ?_ fun bytes s' => (loadResponse_reaches bytes s').trans (checkStatus_reaches _ _)
    rw [readBytes_block]
  | otherHost => exact absurd h (by simp [perform])

/-- The cases of a step: the reset event, no action of the host's, or its oldest pending action. -/
theorem step_cases (s : State) :
    (resetDue s.host = true ∧ step s = .next (accessPoint s)) ∨
    (resetDue s.host = false ∧ (s.host.hung = true ∨ s.host.pending = []) ∧ step s = .next (accessPoint s)) ∨
    (∃ a rest, resetDue s.host = false ∧ s.host.hung = false ∧ s.host.pending = a :: rest ∧
      step s = perform a { s with host := { s.host with pending := rest, resets := s.host.resets.tail } }) := by
  unfold step hostStep hostTurn accessPoint
  cases hd : resetDue s.host
  · cases hh : s.host.hung
    · cases hp : s.host.pending <;> simp [hh, hp]
    · simp [hh]
  · simp

/-- A step changes the block only through a chain of the block's operations and resets. -/
theorem step_reaches (s t : State) (h : step s = .next t) : Reaches s.block t.block := by
  rcases step_cases s with ⟨_, hs⟩ | ⟨_, _, hs⟩ | ⟨a, rest, _, _, _, hs⟩
  · rw [hs] at h; injection h with h; subst h; exact accessPoint_reaches s
  · rw [hs] at h; injection h with h; subst h; exact accessPoint_reaches s
  · rw [hs] at h; have hr := perform_reaches _ _ _ h; exact hr

end Sys2Proof.Machine
end

