-- ==== Sys2Proof/Laws/PerInstr.lean ====
section
/-! SUPPORT. The family `TableRow`, about every instruction as syntax: its encoding has the length of its row of
spec/opcode_table.json and, under the row's mask, the row's bits (spec/30_encoding.md R64, R77). -/

namespace Sys2Proof.Laws.TableRow

/-- An encoding as a length in bits and one number, a frame read big-endian (R77). -/
def numbered : Encoded → Nat × BitVec 40
  | .opw v => (32, v.setWidth 40)
  | .frame bytes => (8 * bytes.length, bytes.foldl (fun n b => n <<< 8 ||| b.setWidth 40) 0#40)

/-- Length in bits, `match` and `mask` of the instruction's row, as the table has them. -/
def row : Instr → Nat × BitVec 40 × BitVec 40
  | .nop => (32, 0x00000000#40, 0xFFFFFFFF#40)
  | .clr => (32, 0x01000000#40, 0xFFFFFFFF#40)
  | .crcInit => (32, 0x10000000#40, 0xFFFFFFFF#40)
  | .crcByte _ => (32, 0x11000000#40, 0xFFFFFF00#40)
  | .crcWord _ => (32, 0x12000000#40, 0xFFFF0000#40)
  | .encCmd _ => (32, 0x20000000#40, 0xFFFF0000#40)
  | .encArg _ => (32, 0x21000000#40, 0xFFFF0000#40)
  | .encCat _ => (32, 0x22000000#40, 0xFF00FFFF#40)
  | .rxClr => (32, 0x30000000#40, 0xFFFFFFFF#40)
  | .rxByte _ => (32, 0x31000000#40, 0xFFFFFF00#40)
  | .decWord _ => (32, 0x32000000#40, 0xFF00FFFF#40)
  | .decAll _ => (32, 0x33000000#40, 0xFF00FFFF#40)
  | .cvtMeas => (32, 0x40000000#40, 0xFFFFFFFF#40)
  | .reinit => (16, 0x3646#40, 0xFFFF#40)
  | .wakeup => (16, 0x36F6#40, 0xFFFF#40)
  | .getSerialNumber => (16, 0x3682#40, 0xFFFF#40)
  | .readMeasurement => (16, 0xEC05#40, 0xFFFF#40)
  | .startPeriodicMeasurement => (16, 0x21B1#40, 0xFFFF#40)
  | .stopPeriodicMeasurement => (16, 0x3F86#40, 0xFFFF#40)
  | .getDataReadyStatus => (16, 0xE4B8#40, 0xFFFF#40)
  | .singleShotMeasurement => (16, 0x219D#40, 0xFFFF#40)
  | .setSensorAltitude _ _ => (40, 0x2427000000#40, 0xFFFF000000#40)
  | .getSensorAltitude => (16, 0x2322#40, 0xFFFF#40)
  | .setAmbientPressure _ _ => (40, 0xE000000000#40, 0xFFFF000000#40)
  | .getAmbientPressure => (16, 0xE000#40, 0xFFFF#40)
  | .persistSettings => (16, 0x3615#40, 0xFFFF#40)
  | .setAscEnabled _ _ => (40, 0x2416000000#40, 0xFFFF000000#40)
  | .getAscEnabled => (16, 0x2313#40, 0xFFFF#40)
  | .setAscTarget _ _ => (40, 0x243A000000#40, 0xFFFF000000#40)
  | .getAscTarget => (16, 0x233F#40, 0xFFFF#40)

/-- The instruction's encoding is a word of its row. -/
def Statement (i : Instr) : Prop :=
  (numbered (encode i)).1 = (row i).1 ∧ (numbered (encode i)).2 &&& (row i).2.2 = (row i).2.1

/-- The fixed bits of an operation word whose operand stands in `IMM`. -/
theorem word_in_imm (opc : Byte) (v : Word) :
    (Machine.opWord opc 0#8 v).setWidth 40 &&& 0xFFFF0000#40 = opc.setWidth 40 <<< 24 := by
  apply BitVec.eq_of_getLsbD_eq; intro k hk
  interval_cases k <;> simp [Machine.opWord]

/-- The fixed bits of a 5-byte frame. -/
theorem opcode_of_frame (m l a b c : Byte) :
    (((((0#40 <<< 8 ||| m.setWidth 40) <<< 8 ||| l.setWidth 40) <<< 8 ||| a.setWidth 40) <<< 8 ||| b.setWidth 40) <<< 8
      ||| c.setWidth 40) &&& 0xFFFF000000#40 = m.setWidth 40 <<< 32 ||| l.setWidth 40 <<< 24 := by
  apply BitVec.eq_of_getLsbD_eq; intro k hk
  interval_cases k <;> simp

theorem nop : Statement .nop := by
  unfold Statement; decide

theorem clr : Statement .clr := by
  unfold Statement; decide

theorem crcInit : Statement .crcInit := by
  unfold Statement; decide

theorem crcByte (b : Byte) : Statement (.crcByte b) := by
  revert b; unfold Statement; decide

theorem crcWord (w : Word) : Statement (.crcWord w) := ⟨rfl, (word_in_imm _ _).trans rfl⟩

theorem encCmd (opcode : Word) : Statement (.encCmd opcode) := ⟨rfl, (word_in_imm _ _).trans rfl⟩

theorem encArg (value : Word) : Statement (.encArg value) := ⟨rfl, (word_in_imm _ _).trans rfl⟩

theorem encCat (index : Byte) : Statement (.encCat index) := by
  revert index; unfold Statement; decide

theorem rxClr : Statement .rxClr := by
  unfold Statement; decide

theorem rxByte (b : Byte) : Statement (.rxByte b) := by
  revert b; unfold Statement; decide

theorem decWord (k : Byte) : Statement (.decWord k) := by
  revert k; unfold Statement; decide

theorem decAll (n : Byte) : Statement (.decAll n) := by
  revert n; unfold Statement; decide

theorem cvtMeas : Statement .cvtMeas := by
  unfold Statement; decide

theorem reinit : Statement .reinit := by
  unfold Statement; decide

theorem wakeup : Statement .wakeup := by
  unfold Statement; decide

theorem getSerialNumber : Statement .getSerialNumber := by
  unfold Statement; decide

theorem readMeasurement : Statement .readMeasurement := by
  unfold Statement; decide

theorem startPeriodicMeasurement : Statement .startPeriodicMeasurement := by
  unfold Statement; decide

theorem stopPeriodicMeasurement : Statement .stopPeriodicMeasurement := by
  unfold Statement; decide

theorem getDataReadyStatus : Statement .getDataReadyStatus := by
  unfold Statement; decide

theorem singleShotMeasurement : Statement .singleShotMeasurement := by
  unfold Statement; decide

theorem setSensorAltitude (arg : Word) (crc : Byte) : Statement (.setSensorAltitude arg crc) := ⟨rfl, (opcode_of_frame _ _ _ _ _).trans rfl⟩

theorem getSensorAltitude : Statement .getSensorAltitude := by
  unfold Statement; decide

theorem setAmbientPressure (arg : Word) (crc : Byte) : Statement (.setAmbientPressure arg crc) := ⟨rfl, (opcode_of_frame _ _ _ _ _).trans rfl⟩

theorem getAmbientPressure : Statement .getAmbientPressure := by
  unfold Statement; decide

theorem persistSettings : Statement .persistSettings := by
  unfold Statement; decide

theorem setAscEnabled (arg : Word) (crc : Byte) : Statement (.setAscEnabled arg crc) := ⟨rfl, (opcode_of_frame _ _ _ _ _).trans rfl⟩

theorem getAscEnabled : Statement .getAscEnabled := by
  unfold Statement; decide

theorem setAscTarget (arg : Word) (crc : Byte) : Statement (.setAscTarget arg crc) := ⟨rfl, (opcode_of_frame _ _ _ _ _).trans rfl⟩

theorem getAscTarget : Statement .getAscTarget := by
  unfold Statement; decide

end Sys2Proof.Laws.TableRow
end

