-- ==== Sys2Proof/Laws/Response.lean ====
section
/-! SUPPORT. What an exchange with response gives when it goes on to its end, whatever resets fall inside it: the
response was validated group by group, and the values the host trusts are those of the response. -/

namespace Sys2Proof.Machine

/-- At the moment before an access the block is as it was, or reset. -/
theorem accessPoint_block (s : State) : (accessPoint s).block = s.block ∨ (accessPoint s).block = Block.reset := by
  unfold accessPoint; cases resetDue s.host <;> simp

/-- Where a bit that reset clears stands after that moment, no reset came. -/
theorem accessPoint_unreset {valid : Block → Bool} (hv : valid Block.reset = false) (s : State)
    (h : valid (accessPoint s).block = true) : (accessPoint s).block = s.block := by
  rcases accessPoint_block s with e | e
  · exact e
  · rw [e, hv] at h; cases h

/-- `RXB` holds these bytes, or fewer, because a reset fell while they were loaded. -/
def Loaded (bytes : List Byte) (b : Block) : Prop :=
  b.rxlen.toNat < bytes.length ∨ (b.rxlen.toNat = bytes.length ∧ ∀ i < bytes.length, rxAt b i = bytes.getD i 0#8)

/-- Nothing is loaded after reset. -/
theorem Loaded.reset (bytes : List Byte) : Loaded bytes Block.reset := by
  cases bytes with
  | nil => right; simp [Block.reset]
  | cons => left; simp [Block.reset]
/-- A reset leaves fewer bytes loaded. -/
theorem Loaded.afterAccess {bytes : List Byte} {s : State} (h : Loaded bytes s.block) :
    Loaded bytes (accessPoint s).block := by
  rcases accessPoint_block s with e | e <;> rw [e]
  · exact h
  · exact Loaded.reset _

/-- `RX.BYTE` loads one byte more. -/
theorem Loaded.push (pre : List Byte) (v : Byte) (b : Block) (hl : pre.length < 9) (h : Loaded pre b) :
    Loaded (pre ++ [v]) (finish (opRxByte v b)) := by
  have hlt : b.rxlen.toNat < 9 := by rcases h with h | h <;> omega
  rcases opRxByte_cases v b with ⟨_, e⟩ | ⟨hh, _⟩
  swap; omega
  rw [e]
  have hadd : (b.rxlen + 1#4).toNat = b.rxlen.toNat + 1 := by
    rw [BitVec.toNat_add]; simp; omega
  rcases h with h | ⟨h, hb⟩
  · left; simp [finish, pushByte, hadd, h]
  · right
    refine ⟨by simp only [finish, pushByte, hadd]; simp [h], ?_⟩
    intro i hi
    simp only [finish, pushByte, rxAt]
    simp at hi
    rw [Vector.getElem?_setIfInBounds]
    by_cases he : b.rxlen.toNat = i
    · have : i = pre.length := by omega
      subst this
      simp [he, hl, List.getD]
    · have hip : i < pre.length := by omega
      rw [if_neg he]
      have := hb i hip
      simp only [rxAt] at this
      rw [this]
      simp [List.getD, List.getElem?_append_left hip]

/-- `RX.BYTE` for each byte in turn loads them all. -/
theorem Loaded.load (more : List Byte) : ∀ (pre : List Byte) (s : State), pre.length + more.length ≤ 9 →
    Loaded pre s.block →
    Loaded (pre ++ more) (loadBytes more s).block := by
  induction more with
  | nil => intro pre s _ h; simpa [loadBytes] using h
  | cons v rest ih =>
    intro pre s hl h
    simp at hl
    have := ih (pre ++ [v]) (hostOperate (opRxByte v) s) (by simp; omega)
      (Loaded.push pre v _ (by omega) (Loaded.afterAccess h))
    simpa [loadBytes] using this

/-- Loading a response leaves its bytes in `RXB`, or fewer of them. -/
theorem loadResponse_loaded (bytes : List Byte) (s : State) (hl : bytes.length ≤ 9) :
    Loaded bytes (loadResponse bytes s).block := by
  have := Loaded.load bytes [] (hostOperate opRxClr s) (by simpa using hl)
    (by right; simp [hostOperate, operate, opRxClr, finish, emptyResponse])
  simpa [loadResponse] using this

/-- The `n` groups of a response matched, and its words stand valid in `W`. -/
def Validated (n : Nat) (bytes : List Byte) (b : Block) : Prop :=
  (∀ k < n, groupMatches bytes k) ∧
    (∀ k (h : k < 3), k < n → b.w[k] = responseWord bytes k ∧ b.wv[k] = true) ∧ b.mv = false

/-- `DEC.ALL` of what was loaded validates the response, or ends in an error. -/
theorem opDecAll_validates (n : Byte) (bytes : List Byte) (b : Block) (hn : n = 1#8 ∨ n = 3#8)
    (hb : bytes.length = 3 * n.toNat)
    (h : Loaded bytes b) : (Validated n.toNat bytes (finish (opDecAll n b)) ∧ (finish (opDecAll n b)).err = 0#3) ∨
      (finish (opDecAll n b)).err ≠ 0#3 := by
  rcases opDecAll_cases n b with ⟨⟨h1, h2⟩, _⟩ | ⟨_, _, e⟩ | ⟨_, _, _, e⟩ | ⟨_, hl, hs, e⟩
  · rcases hn with rfl | rfl <;> contradiction
  · right; rw [e]; simp [finish, raiseError, errorCode]
  · right; rw [e]; simp [finish, raiseError, errorCode]
  · left
    rw [e]
    refine ⟨?_, rfl⟩
    rw [scanGroups_ok] at hs
    rcases h with h | ⟨_, hx⟩
    · omega
    have hm : ∀ k < n.toNat, groupMatches bytes k := by
      intro k hk
      have := hs k (by omega) (by omega)
      simp only [groupCrc, groupReceived] at this
      rw [hx _ (by omega), hx _ (by omega), hx _ (by omega)] at this
      exact this
    have hw : ∀ k < n.toNat, groupWord b k = responseWord bytes k := by
      intro k hk
      simp only [groupWord, responseWord]
      rw [hx _ (by omega), hx _ (by omega)]
    refine ⟨hm, ?_, ?_⟩
    · intro k hk hkn
      rw [← hw k hkn]
      rcases hn with rfl | rfl
      · have : k = 0 := by simp at hkn; omega
        subst this
        simp [finish, storeGroups, storeWord]
      · interval_cases k <;> simp [finish, storeGroups, storeWord]
    · rw [storeGroups_frame]; rfl

/-- Where decoding goes on, the response is valid, whatever resets fall inside. -/
theorem decodeResponse_ok (c : WireCmd) (bytes : List Byte) (s s' : State) (hr : (catalogRow c).respWords ≠ 0#2)
    (hb : bytes.length = responseLength c) (h : Loaded bytes s.block)
    (hok : decodeResponse c s = .ok () s') : Validated (catalogRow c).respWords.toNat bytes s'.block := by
  have hn : (catalogRow c).respWords.setWidth 8 = 1#8 ∨ (catalogRow c).respWords.setWidth 8 = 3#8 := by
    cases c <;> first | decide | (exact absurd rfl hr)
  have he : ((catalogRow c).respWords.setWidth 8).toNat = (catalogRow c).respWords.toNat := by cases c <;> rfl
  have hlen : bytes.length = 3 * ((catalogRow c).respWords.setWidth 8).toNat := by rw [he]; exact hb
  unfold decodeResponse at hok
  rcases checkStatus_cases (responseValid c) (hostOperate (opDecAll ((catalogRow c).respWords.setWidth 8)) s) with
    ⟨h0, hv, e⟩ | ⟨_, e⟩ | ⟨_, _, e⟩ <;> rw [e] at hok
  swap; cases hok
  swap; cases hok
  injection hok with _ hok
  subst hok
  rcases accessPoint_block (hostOperate (opDecAll ((catalogRow c).respWords.setWidth 8)) s) with e1 | e1
  · rw [e1] at h0 ⊢
    rcases opDecAll_validates _ bytes _ hn hlen (Loaded.afterAccess h) with ⟨hg, _⟩ | hne
    · rw [he] at hg; exact hg
    · exact absurd h0 hne
  · rw [e1] at hv
    exfalso; revert hv; unfold responseValid; split <;> simp [Block.reset, allWordsValid]

/-- A write that goes on used up one outcome of the transport, a success. -/
theorem sendOnly_ok (c : WireCmd) (s s' : State) (b1 : List Byte) (rest : List TransportReply)
    (hr : s.host.replies = .ok b1 :: rest) (h : sendOnly c s = .ok () s') : s'.host.replies = rest := by
  unfold sendOnly sendFrame at h
  rcases checkStatus_cases (·.catv) (readFrame s).2 with ⟨_, _, e⟩ | ⟨_, e⟩ | ⟨_, _, e⟩ <;> rw [e] at h
  swap; cases h
  swap; cases h
  simp only [andThen] at h
  have hrep : (accessPoint (readFrame s).2).host.replies = .ok b1 :: rest := by
    show (readFrame s).2.host.replies = _
    rw [readFrame_host]; exact hr
  rcases writeBytes_cases (readFrame s).1 (accessPoint (readFrame s).2) with
    ⟨b, hb, e⟩ | ⟨hb, e⟩ | ⟨hb, e⟩ <;> rw [e] at h
  swap; cases h
  swap; cases h
  injection h with _ h
  subst h
  simp only [sleepDelay_eq, sleepFor, recordCall, hrep, List.tail_cons]

/-- An exchange that goes on read the bytes of the second outcome, and they are valid. -/
theorem exchangeWithResponse_ok (c : WireCmd) (s s' : State) (b1 bytes : List Byte) (rest : List TransportReply)
    (hr : s.host.replies = .ok b1 :: .ok bytes :: rest) (hn : (catalogRow c).respWords ≠ 0#2)
    (h : exchangeWithResponse c s = .ok () s') : Validated (catalogRow c).respWords.toNat bytes s'.block := by
  unfold exchangeWithResponse sendAndRead at h
  cases h1 : sendOnly c (encodeCommand c s) with
  | error e t => rw [h1] at h; cases h
  | noReturn t => rw [h1] at h; cases h
  | ok v t =>
    rw [h1] at h
    simp only [andThen] at h
    have ht := sendOnly_ok c _ t b1 _ (show (encodeCommand c s).host.replies = _ from hr) h1
    rcases readBytes_cases (responseLength c) t with ⟨b, hb, hl, e⟩ | ⟨e, _⟩ | ⟨_, e⟩ <;> rw [e] at h
    swap; cases h
    swap; cases h
    simp only [nextReply, ht] at hb
    injection hb with hb
    subst hb
    refine decodeResponse_ok c _ _ s' hn hl (loadResponse_loaded _ _ ?_) h
    rw [hl]; cases c <;> decide

/-- What is trusted was read with a good `STATUS` after it. -/
theorem trusted_ok (valid : Block → Bool) (view : State → HostValue × State) (s s' : State) (v : HostValue)
    (h : trusted valid view s = .ok v s') :
    (accessPoint (view s).2).block.err = 0#3 ∧ valid (accessPoint (view s).2).block = true ∧ v = (view s).1 := by
  unfold trusted at h
  rcases checkStatus_cases valid (view s).2 with ⟨h0, hv, e⟩ | ⟨_, e⟩ | ⟨_, _, e⟩ <;> rw [e] at h
  · injection h with h _
    exact ⟨h0, hv, h.symm⟩
  · cases h
  · cases h

/-- The valid bits of a response are clear after reset. -/
theorem responseValid_reset (c : WireCmd) : responseValid c Block.reset = false := by cases c <;> rfl

/-- A word that is trusted is the response's. -/
theorem trusted_oneWordView (c : WireCmd) (f : Word → HostValue) (bytes : List Byte) (s s' : State) (v : HostValue)
    (hg : Validated 1 bytes s.block) (h : trusted (responseValid c) (oneWordView f) s = .ok v s') :
    v = f (responseWord bytes 0) := by
  obtain ⟨_, hv, rfl⟩ := trusted_ok _ _ _ _ _ h
  have e2 := accessPoint_unreset (responseValid_reset c) _ hv
  have e1 := accessPoint_unreset (responseValid_reset c) s (e2 ▸ hv)
  simp only [oneWordView, e1, (hg.2.1 0 (by omega) (by omega)).1]

/-- A serial number that is trusted is the response's. -/
theorem trusted_serialView (bytes : List Byte) (s s' : State) (v : HostValue) (hg : Validated 3 bytes s.block)
    (h : trusted (responseValid .getSerialNumber) serialView s = .ok v s') :
    v = serialValue (responseWord bytes 0) (responseWord bytes 1) (responseWord bytes 2) := by
  obtain ⟨_, hv, rfl⟩ := trusted_ok _ _ _ _ _ h
  have r := accessPoint_unreset (responseValid_reset .getSerialNumber)
  simp only [serialView] at *
  have e4 := r _ hv
  have e3 := r _ (e4 ▸ hv)
  have e2 := r _ (e3 ▸ e4 ▸ hv)
  have e1 := r _ (e2 ▸ e3 ▸ e4 ▸ hv)
  rw [e3, e2, e1, (hg.2.1 0 (by omega) (by omega)).1, (hg.2.1 1 (by omega) (by omega)).1,
    (hg.2.1 2 (by omega) (by omega)).1]

/-- A `CVT.MEAS` that ends with `OK` and leaves `MV` set converted the words. -/
theorem finish_opCvtMeas_ok (b : Block) (h : (finish (opCvtMeas b)).err = 0#3) :
    allWordsValid b = true ∧ (finish (opCvtMeas b)).co2 = b.w[0] ∧ (finish (opCvtMeas b)).temp = tempF32 b.w[1] ∧
      (finish (opCvtMeas b)).rh = rhF32 b.w[2] := by
  rcases opCvtMeas_cases b with ⟨hw, e⟩ | ⟨_, e⟩ <;> rw [e] at h ⊢
  · exact ⟨hw, rfl, rfl, rfl⟩
  · simp [finish, raiseError, errorCode] at h

/-- A measurement that is trusted is the conversion of the response. -/
theorem trusted_measurementView (bytes : List Byte) (s s' : State) (v : HostValue) (hg : Validated 3 bytes s.block)
    (h : trusted (·.mv) measurementView s = .ok v s') :
    v = .measurement (responseWord bytes 0) (tempF32 (responseWord bytes 1)) (rhF32 (responseWord bytes 2)) := by
  obtain ⟨h0, hv, rfl⟩ := trusted_ok _ _ _ _ _ h
  have r := accessPoint_unreset (valid := (·.mv)) rfl
  simp only [measurementView] at *
  have e4 := r _ hv
  have e3 := r _ (e4 ▸ hv)
  have e2 := r _ (e3 ▸ e4 ▸ hv)
  have e1 := r _ (e2 ▸ e3 ▸ e4 ▸ hv)
  rw [e4, e3, e2, e1] at h0
  obtain ⟨hw, hc, ht, hh⟩ := finish_opCvtMeas_ok (accessPoint s).block h0
  rw [accessPoint_unreset (valid := allWordsValid) rfl s hw] at hc ht hh
  rw [e3, e2, e1]
  simp only [hostOperate, operate, accessPoint_unreset (valid := allWordsValid) rfl s hw, hc, ht, hh]
  rw [(hg.2.1 0 (by omega) (by omega)).1, (hg.2.1 1 (by omega) (by omega)).1, (hg.2.1 2 (by omega) (by omega)).1]

/-- A body that gives a value validated its response and trusted the value. -/
theorem responseBody_ok (c : WireCmd) (valid : Block → Bool) (view : State → HostValue × State) (s s' : State)
    (b1 bytes : List Byte) (rest : List TransportReply) (v : HostValue)
    (hr : s.host.replies = .ok b1 :: .ok bytes :: rest) (hn : (catalogRow c).respWords ≠ 0#2)
    (h : responseBody c valid view s = .ok v s') :
    ∃ u, Validated (catalogRow c).respWords.toNat bytes u.block ∧ trusted valid view u = .ok v s' := by
  unfold responseBody at h
  cases h1 : exchangeWithResponse c s with
  | error e t => rw [h1] at h; cases h
  | noReturn t => rw [h1] at h; cases h
  | ok x t => rw [h1] at h; exact ⟨t, exchangeWithResponse_ok c s t b1 bytes rest hr hn h1, h⟩

/-- A call that returns a value has a body that gives it. -/
theorem hostCall_ok (c : WireCmd) (body : State → Exchange HostValue) (s t : State) (v : HostValue)
    (ha : sessionAllows c s.host = true)
    (h : hostCall c body s = t) (hv : t.host.result = some (.ok v)) : ∃ s', body s = .ok v s' := by
  unfold hostCall at h
  rw [if_pos ha] at h
  cases hb : body s with
  | ok w s' => rw [hb] at h; subst h; simp [giveResult] at hv; exact ⟨s', by rw [hv]⟩
  | error e s' => rw [hb] at h; subst h; simp [giveResult] at hv
  | noReturn s' => rw [hb] at h; subst h; simp [hangHost] at hv

end Sys2Proof.Machine
end

