-- ==== Sys2Proof/Tests/Slice0.lean ====
section
/-! SUPPORT. Tests of one step each, their expected values from the vectors of spec/95_test_vectors.md or worked out by hand
from the rule cited; the smoke test of `WellFormed`; words and frames written out from spec/30_encoding.md; and a witness for
the hypotheses of every statement that has some. -/

namespace Sys2Proof.Tests

set_option maxRecDepth 40000

open Sys2Proof Sys2Proof.Machine

/-! ## Helpers -/

/-- The block of a next state. -/
def blk (o : Host.Outcome State Fault Refusal) : Option Block :=
  match o with
  | .next s => some s.block
  | .fault _ => none
  | .refused _ => none

/-- The host of a next state. -/
def hst (o : Host.Outcome State Fault Refusal) : Option HostSide :=
  match o with
  | .next s => some s.host
  | .fault _ => none
  | .refused _ => none

/-- `STATUS` of a next state. -/
def st (o : Host.Outcome State Fault Refusal) : Option Word32 := (blk o).map statusWord

/-- Reset, with these bytes loaded in `RXB`. -/
def loaded (v : Vector Byte 9) (n : BitVec 4) : State :=
  { State.reset with block := { Block.reset with rxb := v, rxlen := n } }

/-- Reset, with these words decoded and valid. -/
def decoded (w0 w1 w2 : Word) : State :=
  { State.reset with block := { Block.reset with w := #v[w0, w1, w2], wv := #v[true, true, true] } }

/-- Reset, with this 2-byte frame encoded. -/
def framed (o1 o0 : Byte) : State :=
  { State.reset with block := { Block.reset with txb := #v[o1, o0, 0#8, 0#8, 0#8], txlen := 2#3 } }

/-- A host that knows this mode and whose transport will answer so. -/
def host (m : SensorMode) (replies : List TransportReply) : State :=
  { State.reset with host := { HostSide.start with mode := some m, replies := replies } }

/-- A host with this next action. -/
def acting (a : HostAction) : State := pushAction a State.reset

/-- The three groups of spec/95_test_vectors.md program P3. -/
def p3 : List Byte := [0x01#8, 0xF4#8, 0x33#8, 0x33#8, 0x66#8, 0x03#8, 0x67#8, 0xA2#8, 0xE4#8]

/-- The three groups of V4, a serial number. -/
def v4 : List Byte := [0x66#8, 0xBF#8, 0x1F#8, 0xEF#8, 0x07#8, 0xF9#8, 0x3B#8, 0xF2#8, 0xC9#8]

/-- Where the mode allows a call, the session does. -/
theorem allowed (c : WireCmd) (h : HostSide) (hm : modeAllows c h = true) : sessionAllows c h = true := by
  simp [sessionAllows, hm]

/-- A call the session allows is its body. -/
theorem call_is_body (c : WireCmd) (body : State → Exchange HostValue) (s : State) (h : sessionAllows c s.host = true) :
    hostCall c body s =
      match body s with
      | .ok v s' => giveResult (.ok v) s'
      | .error e s' => giveResult (.error e) s'
      | .noReturn s' => hangHost s' := by
  exact if_pos h

/-! ## Well-formedness, one ill-formed instruction for each check (R67) -/

theorem test_wf_altitude : WellFormed (.setSensorAltitude 0x079E#16 0x09#8) = true ∧
    WellFormed (.setSensorAltitude 0x079E#16 0x0A#8) = false := by decide
theorem test_wf_pressure : WellFormed (.setAmbientPressure 0x03DB#16 0x42#8) = true ∧
    WellFormed (.setAmbientPressure 0x03DB#16 0x43#8) = false := by decide
theorem test_wf_asc_enabled : WellFormed (.setAscEnabled 0x0001#16 0xB0#8) = true ∧
    WellFormed (.setAscEnabled 0x0001#16 0x00#8) = false := by decide
theorem test_wf_asc_target : WellFormed (.setAscTarget 0x0190#16 0x4C#8) = true ∧
    WellFormed (.setAscTarget 0x0190#16 0xCC#8) = false := by decide

/-! ## Decoding, words written out from R60, R64, R66, R67 -/

/-- `OPC` 0x00, 0x01. -/
theorem test_decode_system : decode (.opw 0x00000000#32) = .ok .nop ∧ decode (.opw 0x01000000#32) = .ok .clr := by decide
/-- `OPC` 0x10 to 0x12; the operand in bits 7 to 0 or 15 to 0. -/
theorem test_decode_crc : decode (.opw 0x10000000#32) = .ok .crcInit ∧
    decode (.opw 0x110000BE#32) = .ok (.crcByte 0xBE#8) ∧ decode (.opw 0x1200BEEF#32) = .ok (.crcWord 0xBEEF#16) := by decide
/-- `OPC` 0x20 to 0x22; the index in bits 23 to 16. -/
theorem test_decode_enc : decode (.opw 0x2000202F#32) = .ok (.encCmd 0x202F#16) ∧
    decode (.opw 0x2100079E#32) = .ok (.encArg 0x079E#16) ∧ decode (.opw 0x22100000#32) = .ok (.encCat 16#8) ∧
    decode (.opw 0x22FF0000#32) = .ok (.encCat 255#8) := by decide
/-- `OPC` 0x30 to 0x33. -/
theorem test_decode_rx : decode (.opw 0x30000000#32) = .ok .rxClr ∧ decode (.opw 0x310000F4#32) = .ok (.rxByte 0xF4#8) ∧
    decode (.opw 0x32020000#32) = .ok (.decWord 2#8) ∧ decode (.opw 0x33030000#32) = .ok (.decAll 3#8) := by decide
/-- `OPC` 0x40. -/
theorem test_decode_cvt : decode (.opw 0x40000000#32) = .ok .cvtMeas := by decide
/-- The commands without argument, response or not: opcode high byte first (R105). -/
theorem test_decode_plain_frames : decode (.frame [0x36#8, 0x46#8]) = .ok .reinit ∧
    decode (.frame [0x36#8, 0xF6#8]) = .ok .wakeup ∧ decode (.frame [0x21#8, 0xB1#8]) = .ok .startPeriodicMeasurement ∧
    decode (.frame [0x3F#8, 0x86#8]) = .ok .stopPeriodicMeasurement ∧
    decode (.frame [0x21#8, 0x9D#8]) = .ok .singleShotMeasurement ∧
    decode (.frame [0x36#8, 0x15#8]) = .ok .persistSettings := by decide
/-- The commands with response. -/
theorem test_decode_read_frames : decode (.frame [0x36#8, 0x82#8]) = .ok .getSerialNumber ∧
    decode (.frame [0xEC#8, 0x05#8]) = .ok .readMeasurement ∧
    decode (.frame [0xE4#8, 0xB8#8]) = .ok .getDataReadyStatus ∧
    decode (.frame [0x23#8, 0x22#8]) = .ok .getSensorAltitude ∧
    decode (.frame [0xE0#8, 0x00#8]) = .ok .getAmbientPressure ∧
    decode (.frame [0x23#8, 0x13#8]) = .ok .getAscEnabled ∧ decode (.frame [0x23#8, 0x3F#8]) = .ok .getAscTarget := by decide
/-- The commands with argument (V8 and section 2.3). -/
theorem test_decode_argument_frames :
    decode (.frame [0x24#8, 0x27#8, 0x07#8, 0x9E#8, 0x09#8]) = .ok (.setSensorAltitude 0x079E#16 0x09#8) ∧
    decode (.frame [0xE0#8, 0x00#8, 0x03#8, 0xDB#8, 0x42#8]) = .ok (.setAmbientPressure 0x03DB#16 0x42#8) ∧
    decode (.frame [0x24#8, 0x16#8, 0x00#8, 0x01#8, 0xB0#8]) = .ok (.setAscEnabled 0x0001#16 0xB0#8) ∧
    decode (.frame [0x24#8, 0x3A#8, 0x01#8, 0x90#8, 0x4C#8]) = .ok (.setAscTarget 0x0190#16 0x4C#8) := by decide
/-- R65: a reserved `OPC`, and a non-zero field of an assigned one (section 2.5). -/
theorem test_decode_refuses_words : decode (.opw 0x50000000#32) = .error (.reservedOpc 0x50#8) ∧
    decode (.opw 0x00010000#32) = .error (.nonzeroField 0x00#8) ∧
    decode (.opw 0x11000100#32) = .error (.nonzeroField 0x11#8) ∧
    decode (.opw 0x32030001#32) = .error (.nonzeroField 0x32#8) := by decide
/-- R70, R72: no catalog row, no command length, and a length that is another row's only. -/
theorem test_decode_refuses_frames : decode (.frame [0x20#8, 0x2F#8]) = .error (.unknownOpcode 0x202F#16) ∧
    decode (.frame [0x24#8, 0x27#8]) = .error (.unknownOpcode 0x2427#16) ∧
    decode (.frame [0x24#8, 0x27#8, 0x07#8, 0x9E#8]) = .error (.frameLength 4) ∧ decode (.frame []) = .error (.frameLength 0) := by
  decide
/-- R77: the table's numbering, a frame read as one big-endian number. -/
theorem test_table_words : decodeTableWord 32 0x33030000 = some (.decAll 3#8) ∧
    decodeTableWord 16 0xE000 = some .getAmbientPressure ∧
    decodeTableWord 40 0xE00003DB42 = some (.setAmbientPressure 0x03DB#16 0x42#8) ∧ decodeTableWord 16 0x2427 = none := by decide
/-- The instruction handed over is the one the next step performs. -/
theorem test_fetch_operation : step (State.reset.withFetchWord 32 0x1200BEEF) = exec (.crcWord 0xBEEF#16) State.reset := rfl
theorem test_fetch_frame : step (State.reset.withFetchWord 40 0x2427079E09) =
    exec (.setSensorAltitude 0x079E#16 0x09#8) State.reset := rfl

/-! ## System operations (section 2.5) -/

theorem test_nop_keeps_sticky :
    st (exec .nop { State.reset with block := { Block.reset with err := 5#3, sticky := true } }) = some 0x00000008#32 := by decide
theorem test_clr_clears_all : blk (exec .clr (framed 0x20#8 0x2F#8)) = some Block.reset := by decide
theorem test_illegal_word : st (performWord 0x50000000#32 State.reset) = some 0x0000000D#32 := by decide
theorem test_illegal_clr_clears_nothing : blk (performWord 0x01000001#32 (framed 0x20#8 0x2F#8)) =
    some { (framed 0x20#8 0x2F#8).block with err := 5#3, sticky := true } := by decide

/-! ## CRC unit (section 2.2) -/

theorem test_crc_init : (blk (exec .crcInit { State.reset with block := { Block.reset with crc := 0x0C#8 } })).map (·.crc) =
    some 0xFF#8 := by decide
theorem test_crc_byte_continues : (blk (exec (.crcByte 0xEF#8) { State.reset with block := { Block.reset with crc := 0x0C#8 } })).map
    (·.crc) = some 0x92#8 := by decide
theorem test_crc_word_starts_anew : (blk (exec (.crcWord 0xBEEF#16) { State.reset with block := { Block.reset with crc := 0x92#8 } })).map
    (·.crc) = some 0x92#8 := by decide
theorem test_crc_nine_bytes :
    crc8 [0x31#8, 0x32#8, 0x33#8, 0x34#8, 0x35#8, 0x36#8, 0x37#8, 0x38#8, 0x39#8] = 0xF7#8 := by decide

/-! ## Transmit framer (section 2.3) -/

theorem test_enc_cmd : blk (exec (.encCmd 0x202F#16) State.reset) = some (framed 0x20#8 0x2F#8).block := by decide
theorem test_enc_arg : (blk (exec (.encArg 0x079E#16) (framed 0x24#8 0x27#8))).map (fun b => (b.txb, b.txlen, b.crc)) =
    some (#v[0x24#8, 0x27#8, 0x07#8, 0x9E#8, 0x09#8], 5#3, 0x09#8) := by decide
theorem test_enc_arg_without_frame : blk (exec (.encArg 0x079E#16) State.reset) =
    some { Block.reset with err := 2#3, sticky := true } := by decide
theorem test_enc_cat_pressure : (blk (exec (.encCat 10#8) State.reset)).map (fun b =>
    (b.txb, b.catop, catInfoWord b, b.catdly, statusWord b)) =
    some (#v[0xE0#8, 0x00#8, 0#8, 0#8, 0#8], 0xE000#16, 0x4#32, 1#32, 0x00000100#32) := by decide
theorem test_enc_cat_range : st (exec (.encCat 17#8) State.reset) = some 0x0000000B#32 := by decide

/-! ## Receive framer (section 2.4) -/

theorem test_rx_clr : blk (exec .rxClr (loaded #v[3#8, 0xDB#8, 0x42#8, 0#8, 0#8, 0#8, 0#8, 0#8, 0#8] 3#4)) = some Block.reset := by
  decide
theorem test_rx_byte_last : (blk (exec (.rxByte 0x09#8) (loaded #v[1#8, 2#8, 3#8, 4#8, 5#8, 6#8, 7#8, 8#8, 0#8] 8#4))).map
    (fun b => (b.rxb[8], b.rxlen)) = some (9#8, 9#4) := by decide
theorem test_rx_byte_full : st (exec (.rxByte 0x0A#8) (loaded #v[1#8, 2#8, 3#8, 4#8, 5#8, 6#8, 7#8, 8#8, 9#8] 9#4)) =
    some 0x0000000C#32 := by decide
theorem test_dec_word_mismatch : (blk (exec (.decWord 0#8) (loaded #v[3#8, 0xDB#8, 0x43#8, 0#8, 0#8, 0#8, 0#8, 0#8, 0#8] 3#4))).map
    (fun b => (b.w, b.crc, statusWord b)) = some (#v[0#16, 0#16, 0#16], 0x42#8, 0x00000009#32) := by decide
theorem test_dec_word_range_first : st (exec (.decWord 3#8) State.reset) = some 0x0000000B#32 := by decide
theorem test_dec_all_serial : (blk (exec (.decAll 3#8)
    (loaded #v[0x66#8, 0xBF#8, 0x1F#8, 0xEF#8, 0x07#8, 0xF9#8, 0x3B#8, 0xF2#8, 0xC9#8] 9#4))).map
    (fun b => (b.w, b.crc, statusWord b)) = some (#v[0x66BF#16, 0xEF07#16, 0x3BF2#16], 0xC9#8, 0x00000070#32) := by decide
theorem test_dec_all_stops_at_first : (blk (exec (.decAll 3#8)
    (loaded #v[0x66#8, 0xBF#8, 0x1F#8, 0xEF#8, 0x07#8, 0xF8#8, 0x3B#8, 0xF2#8, 0x00#8] 9#4))).map
    (fun b => (b.w, b.crc, statusWord b)) = some (#v[0#16, 0#16, 0#16], 0xF9#8, 0x00000009#32) := by decide

/-! ## Measurement decoder (section 2.6) -/

theorem test_cvt_meas : (blk (exec .cvtMeas (decoded 0x01F4#16 0x3366#16 0x67A2#16))).map
    (fun b => (b.co2, b.temp, b.rh, statusWord b)) =
    some (0x01F4#16, 0xC11DD22C#32, 0x4221EDC2#32, 0x000000F0#32) := by decide
theorem test_cvt_meas_not_decoded : st (exec .cvtMeas State.reset) = some 0x0000000A#32 := by decide
theorem test_temp_f32 : tempF32 0x0147#16 = 0xC23081D8#32 ∧ tempF32 0x7FFF#16 = 0x4229FEA2#32 ∧
    tempF32 0xFFFE#16 = 0x4301FF51#32 := by decide
theorem test_rh_f32 : rhF32 0x0001#16 = 0x3AC800C8#32 ∧ rhF32 0x5EB9#16 = 0x421401A4#32 ∧ rhF32 0x8000#16 = 0x424800C8#32 := by
  decide
theorem test_temp_f64 : tempF64 0x0147#16 = 0xC23081D9#32 ∧ tempF64 0x41D3#16 = 0xBB160096#32 ∧
    tempF64 0x67A2#16 = 0x41CEC027#32 := by decide
theorem test_rh_f64 : rhF64 0x3366#16 = 0x41A09F61#32 ∧ rhF64 0xFFFF#16 = 0x42C80000#32 := by decide

/-! ## Wire commands (section 2.7, programs P2 to P7) -/

theorem test_reinit : (hst (exec .reinit (host .idle [.ok []]))).map (·.wire) =
    some [.write Config.busAddr [0x36#8, 0x46#8], .sleep 30#32] := by
  simp only [exec, execReinit, call_is_body _ _ _ (allowed .reinit (host .idle [.ok []]).host rfl)]; rfl
theorem test_persist_settings : (hst (exec .persistSettings (host .idle [.ok []]))).map (·.wire) =
    some [.write Config.busAddr [0x36#8, 0x15#8], .sleep 800#32] := by
  simp only [exec, execPersistSettings, call_is_body _ _ _ (allowed .persistSettings (host .idle [.ok []]).host rfl)]; rfl
theorem test_wakeup : (hst (exec .wakeup State.reset)).isSome = true := rfl
theorem test_wakeup_frame : (blk (exec .wakeup (host .sleeping [.ok []]))).map (fun b => (b.txb, b.catdly)) =
    some (#v[0x36#8, 0xF6#8, 0#8, 0#8, 0#8], 30#32) := by
  simp only [exec, execWakeup, call_is_body _ _ _ (allowed .wakeup (host .sleeping [.ok []]).host rfl)]
  cases h : Config.strictSession <;>
    simp [blk, leadingTo, plainBody, andThen, sendOnly, sendFrame, checkStatus, writeBytes, errorCode, nextReply, recordCall, host, giveResult, encodeCommand,
      sleepDelay, sleepFor, catalogRow, publishRow, putCommand, finish, noteMode, h, operate, msbOf, lsbOf, hostOperate,
      accessPoint, resetDue, readFrame, readTx, State.reset, HostSide.start]
theorem test_start_periodic : (andThen (sendOnly .startPeriodicMeasurement (encodeCommand .startPeriodicMeasurement (host .idle [.ok []])))
    fun _ s => Exchange.ok s.host.wire s) = .ok [.write Config.busAddr [0x21#8, 0xB1#8], .sleep 5#32]
      (endState (sendOnly .startPeriodicMeasurement (encodeCommand .startPeriodicMeasurement (host .idle [.ok []])))) := rfl
theorem test_stop_periodic : (endState (sendOnly .stopPeriodicMeasurement (encodeCommand .stopPeriodicMeasurement
    (host .periodicMeasuring [.ok []])))).host.wire = [.write Config.busAddr [0x3F#8, 0x86#8], .sleep 500#32] := rfl
/-- V8 and P2. -/
theorem test_set_sensor_altitude : (hst (exec (.setSensorAltitude 0x079E#16 0x09#8) (host .idle [.ok []]))).map (·.wire) =
    some [.write Config.busAddr [0x24#8, 0x27#8, 0x07#8, 0x9E#8, 0x09#8], .sleep 1#32] := by
  simp only [exec, execSetSensorAltitude, call_is_body _ _ _ (allowed .setSensorAltitude (host .idle [.ok []]).host rfl)]; rfl
theorem test_set_ambient_pressure : (hst (exec (.setAmbientPressure 0x03F5#16 0xDB#8) (host .idle [.ok []]))).map (·.wire) =
    some [.write Config.busAddr [0xE0#8, 0x00#8, 0x03#8, 0xF5#8, 0xDB#8], .sleep 1#32] := by
  simp only [exec, execSetAmbientPressure, call_is_body _ _ _ (allowed .setAmbientPressure (host .idle [.ok []]).host rfl)]
  rfl
theorem test_set_asc_enabled : (hst (exec (.setAscEnabled 0x0001#16 0xB0#8) (host .idle [.ok []]))).map (·.wire) =
    some [.write Config.busAddr [0x24#8, 0x16#8, 0x00#8, 0x01#8, 0xB0#8], .sleep 1#32] := by
  simp only [exec, execSetAscEnabled, call_is_body _ _ _ (allowed .setAscEnabled (host .idle [.ok []]).host rfl)]; rfl
theorem test_set_asc_target : (hst (exec (.setAscTarget 0x0190#16 0x4C#8) (host .idle [.ok []]))).map (·.wire) =
    some [.write Config.busAddr [0x24#8, 0x3A#8, 0x01#8, 0x90#8, 0x4C#8], .sleep 1#32] := by
  simp only [exec, execSetAscTarget, call_is_body _ _ _ (allowed .setAscTarget (host .idle [.ok []]).host rfl)]; rfl
/-- V9 and P5. -/
theorem test_get_ambient_pressure : (hst (exec .getAmbientPressure (host .idle [.ok [], .ok [0x03#8, 0xDB#8, 0x42#8]]))).map (·.result) =
    some (some (.ok (.pascals 98700))) := by
  simp only [exec, execGetAmbientPressure,
    call_is_body _ _ _ (allowed .getAmbientPressure (host .idle [.ok [], .ok [0x03#8, 0xDB#8, 0x42#8]]).host rfl)]
  rfl
theorem test_get_sensor_altitude : (hst (exec .getSensorAltitude (host .idle [.ok [], .ok [0x07#8, 0x9E#8, 0x09#8]]))).map (·.result) =
    some (some (.ok (.word 1950#16))) := by
  simp only [exec, execGetSensorAltitude,
    call_is_body _ _ _ (allowed .getSensorAltitude (host .idle [.ok [], .ok [0x07#8, 0x9E#8, 0x09#8]]).host rfl)]
  rfl
theorem test_get_asc_enabled : (hst (exec .getAscEnabled (host .idle [.ok [], .ok [0x00#8, 0x01#8, 0xB0#8]]))).map (·.result) =
    some (some (.ok (.word 1#16))) := by
  simp only [exec, execGetAscEnabled,
    call_is_body _ _ _ (allowed .getAscEnabled (host .idle [.ok [], .ok [0x00#8, 0x01#8, 0xB0#8]]).host rfl)]
  rfl
theorem test_get_asc_target : (hst (exec .getAscTarget (host .idle [.ok [], .ok [0x01#8, 0x90#8, 0x4C#8]]))).map (·.result) =
    some (some (.ok (.word 400#16))) := by
  simp only [exec, execGetAscTarget,
    call_is_body _ _ _ (allowed .getAscTarget (host .idle [.ok [], .ok [0x01#8, 0x90#8, 0x4C#8]]).host rfl)]
  rfl
/-- V6. -/
theorem test_get_data_ready_status : (hst (exec .getDataReadyStatus
    (host .periodicMeasuring [.ok [], .ok [0x80#8, 0x00#8, 0xA2#8]]))).map (·.result) = some (some (.ok (.ready false))) := by
  simp only [exec, execGetDataReadyStatus,
    call_is_body _ _ _ (allowed .getDataReadyStatus (host .periodicMeasuring [.ok [], .ok [0x80#8, 0x00#8, 0xA2#8]]).host rfl)]
  rfl
theorem test_data_ready_mask : readyValue 0x80FF#16 = .ready true ∧ readyValue 0xF800#16 = .ready false := by decide
/-- V4. -/
theorem test_get_serial_number :
    serialValue 0x66BF#16 0xEF07#16 0x3BF2#16 = .serial 0x66BFEF073BF2#48 := by decide
/-- P3: the result of the whole exchange. -/
theorem test_read_measurement : (hst (exec .readMeasurement (host .periodicMeasuring [.ok [], .ok p3]))).map (·.result) =
    some (some (.ok (.measurement 500#16 0xC11DD22C#32 0x4221EDC2#32))) := by
  simp only [exec, execReadMeasurement,
    call_is_body _ _ _ (allowed .readMeasurement (host .periodicMeasuring [.ok [], .ok p3]).host rfl)]
  rfl
/-- P7: the frame of its first exchange, and that exchange failing. -/
theorem test_single_shot_trigger : (endState (sendOnly .singleShotMeasurement (encodeCommand .singleShotMeasurement (host .idle [.ok []])))).host.wire =
    [.write Config.busAddr [0x21#8, 0x9D#8], .sleep 5000#32] := rfl
theorem test_single_shot_write_fails : ∃ s, singleShotBody (host .idle [.error]) = .error .ioWrite s :=
  ⟨_, rfl⟩
/-- R152, R173: the host call after a bad CRC byte, a failing and a short read. -/
theorem test_call_checksum_error : (hst (exec .getAmbientPressure (host .idle [.ok [], .ok [0x03#8, 0xDB#8, 0x43#8]]))).map (·.result) =
    some (some (.error .checksum)) := by
  simp only [exec, execGetAmbientPressure,
    call_is_body _ _ _ (allowed .getAmbientPressure (host .idle [.ok [], .ok [0x03#8, 0xDB#8, 0x43#8]]).host rfl)]
  rfl
theorem test_call_short_read : (hst (exec .getSensorAltitude (host .idle [.ok [], .ok [0x03#8, 0xDB#8]]))).map (·.result) =
    some (some (.error .ioRead)) := by
  simp only [exec, execGetSensorAltitude,
    call_is_body _ _ _ (allowed .getSensorAltitude (host .idle [.ok [], .ok [0x03#8, 0xDB#8]]).host rfl)]
  rfl

/-! ## Witnesses: for each statement with hypotheses, states and operands that meet them, clause by clause. -/

/-- A stuck host, and a reset event due. -/
def stuckAndReset : State :=
  { State.reset with host := { HostSide.start with hung := true, pending := [.send], resets := [true] } }
theorem witness_reset : stuckAndReset.host.resets = true :: [] ∧
    sessionAllows .wakeup stuckAndReset.host = true ∧ wireOf .wakeup = some .wakeup := ⟨rfl, allowed _ _ rfl, rfl⟩
theorem witness_register_reads :
    (resetDue (acting (.regRead 0x01#6)).host = false ∧ (acting (.regRead 0x01#6)).host.hung = false ∧ (acting (.regRead 0x01#6)).host.pending = .regRead 0x01#6 :: []) ∧
    (0x01#6, 0#32) ∈ registerMap Block.reset ∧ (0x02#6, 0xFF#32) ∈ registerMap Block.reset ∧
    (0x16#6, 0#32) ∈ registerMap Block.reset := by decide
theorem witness_accesses_refused :
    (resetDue (acting (.regRead 0#6)).host = false ∧ (acting (.regRead 0#6)).host.hung = false ∧ (acting (.regRead 0#6)).host.pending = .regRead 0#6 :: []) ∧
    (reservedNumber 0x0D#6 = true ∧ reservedNumber 0x0F#6 = true ∧ reservedNumber 0x13#6 = true ∧
      reservedNumber 0x17#6 = true ∧ reservedNumber 0x3F#6 = true) ∧
    (reservedNumber 0x0C#6 = false ∧ reservedNumber 0x10#6 = false ∧ reservedNumber 0x14#6 = false ∧
      reservedNumber 0x16#6 = false) ∧
    ((0x01#6 : RegNum) ≠ 0#6 ∧ (acting (.regWrite 0x01#6 0#32)).host.pending = .regWrite 0x01#6 0#32 :: []) := by decide
theorem witness_step_waits : ({ State.reset with host := { HostSide.start with hung := true } } : State).host.hung = true ∧
    resetDue ({ State.reset with host := { HostSide.start with hung := true } } : State).host = false ∧
    (resetDue State.reset.host = false ∧ State.reset.host.pending = []) ∧
    (resetDue (acting .otherHost).host = false ∧ (acting .otherHost).host.hung = false ∧
      (acting .otherHost).host.pending = .otherHost :: []) := by decide
/-- The host is stuck and a second host's access is next in the list. -/
theorem witness_stuck_with_a_second_host :
    ({ State.reset with host := { HostSide.start with hung := true, pending := [.otherHost] } } : State).host.hung = true ∧
    resetDue ({ State.reset with host := { HostSide.start with hung := true, pending := [.otherHost] } } : State).host = false :=
  ⟨rfl, rfl⟩
theorem witness_step_runs :
    (resetDue (acting (fetchAction (.opw 0x1200BEEF#32))).host = false ∧
      (acting (fetchAction (.opw 0x1200BEEF#32))).host.hung = false ∧
      (acting (fetchAction (.opw 0x1200BEEF#32))).host.pending = fetchAction (.opw 0x1200BEEF#32) :: [] ∧
      decode (.opw 0x1200BEEF#32) = .ok (.crcWord 0xBEEF#16)) ∧
    ((acting (fetchAction (.frame [0xE0#8, 0x00#8]))).host.pending = fetchAction (.frame [0xE0#8, 0x00#8]) :: [] ∧
      decode (.frame [0xE0#8, 0x00#8]) = .ok .getAmbientPressure) := by decide
/-- A reserved `OPC`, and a non-zero field of an assigned one, as the host's next write to `CMD`. -/
theorem witness_step_illegal :
    (resetDue (acting (.regWrite 0#6 0x50000000#32)).host = false ∧ (acting (.regWrite 0#6 0x50000000#32)).host.hung = false ∧
      (acting (.regWrite 0#6 0x50000000#32)).host.pending = .regWrite 0#6 0x50000000#32 :: []) ∧
    (acting (.regWrite 0#6 0x00000001#32)).host.pending = .regWrite 0#6 0x00000001#32 :: [] ∧
    (∀ r ∈ operationMap, 0x50000000#32 &&& r.2 ≠ r.1) ∧ (∀ r ∈ operationMap, 0x00000001#32 &&& r.2 ≠ r.1) :=
  ⟨by decide, by decide, by simp [operationMap], by simp [operationMap]⟩
/-- R138: the step that writes a reserved word. -/
theorem test_step_of_an_illegal_word : st (step (acting (.regWrite 0#6 0x50000000#32))) = some 0x0000000D#32 := by decide
theorem witness_encode_of_decode : decode (.opw 0x32020000#32) = .ok (.decWord 2#8) ∧
    decode (.frame [0xE0#8, 0x00#8, 0x03#8, 0xDB#8, 0x43#8]) = .ok (.setAmbientPressure 0x03DB#16 0x43#8) := by decide
theorem witness_words_of_no_row : (∀ r ∈ operationMap, 0x50000000#32 &&& r.2 ≠ r.1) ∧
    (∀ r ∈ operationMap, 0x00000001#32 &&& r.2 ≠ r.1) ∧ (∃ r ∈ operationMap, 0x33FF0000#32 &&& r.2 = r.1) :=
  ⟨by simp [operationMap], by simp [operationMap], (0x33000000#32, 0xFF00FFFF#32), by simp [operationMap], by decide⟩
theorem witness_frames_share_an_opcode : (catalogRow .setAmbientPressure).opcode = (catalogRow .getAmbientPressure).opcode ∧
    WireCmd.setAmbientPressure ≠ .getAmbientPressure := by decide
/-- Frames of other lengths, and opcodes of no row of their length: none of the catalog's, or one with the other length. -/
theorem witness_no_command : resetDue (acting (.command [])).host = false ∧ (acting (.command [])).host.hung = false ∧
    (acting (.command [])).host.pending = .command [] :: [] ∧
    (acting (.command [0x24#8, 0x27#8])).host.pending = .command (0x24#8 :: 0x27#8 :: []) :: [] ∧
    (∀ c : WireCmd, (catalogRow c).opcode = joinBytes 0x24#8 0x27#8 → (catalogRow c).hasArg ≠ false) ∧
    (∀ c : WireCmd, (catalogRow c).opcode = joinBytes 0x36#8 0x46#8 → (catalogRow c).hasArg ≠ true) :=
  ⟨rfl, rfl, rfl, rfl, by intro c; cases c <;> decide, by intro c; cases c <;> decide⟩
/-- For each operation, an illegal word of its `OPC` (one for each must-be-zero field where it has two). -/
theorem witness_illegal_words :
    (opcOf 0x00000001#32 = 0x00#8 ∧ 0x00000001#32 ≠ 0x00000000#32) ∧
    (opcOf 0x01000001#32 = 0x01#8 ∧ 0x01000001#32 ≠ 0x01000000#32) ∧
    (opcOf 0x10000001#32 = 0x10#8 ∧ 0x10000001#32 ≠ 0x10000000#32) ∧
    (opcOf 0x11000100#32 = 0x11#8 ∧ 0x11000100#32 &&& 0x00FFFF00#32 ≠ 0#32 ∧ 0x11010000#32 &&& 0x00FFFF00#32 ≠ 0#32) ∧
    (opcOf 0x1201BEEF#32 = 0x12#8 ∧ 0x1201BEEF#32 &&& 0x00FF0000#32 ≠ 0#32) ∧
    (opcOf 0x20010000#32 = 0x20#8 ∧ 0x20010000#32 &&& 0x00FF0000#32 ≠ 0#32) ∧
    (opcOf 0x21800000#32 = 0x21#8 ∧ 0x21800000#32 &&& 0x00FF0000#32 ≠ 0#32) ∧
    (opcOf 0x22000001#32 = 0x22#8 ∧ 0x22000001#32 &&& 0x0000FFFF#32 ≠ 0#32) ∧
    (opcOf 0x30010000#32 = 0x30#8 ∧ 0x30010000#32 ≠ 0x30000000#32) ∧
    (opcOf 0x31008000#32 = 0x31#8 ∧ 0x31008000#32 &&& 0x00FFFF00#32 ≠ 0#32) ∧
    (opcOf 0x32000001#32 = 0x32#8 ∧ 0x32000001#32 &&& 0x0000FFFF#32 ≠ 0#32) ∧
    (opcOf 0x33018000#32 = 0x33#8 ∧ 0x33018000#32 &&& 0x0000FFFF#32 ≠ 0#32) ∧
    (opcOf 0x40000001#32 = 0x40#8 ∧ 0x40000001#32 ≠ 0x40000000#32) := by decide
theorem witness_only_clr_clears_sticky : isOperation .nop = true ∧ Instr.nop ≠ .clr ∧ ∃ s t : State,
    exec .nop s = .next t ∧ s.block.sticky = true :=
  ⟨rfl, by decide, { State.reset with block := { Block.reset with sticky := true } }, _, rfl, rfl⟩
theorem witness_enc_arg : (framed 0x24#8 0x27#8).block.txlen = 2#3 ∧ State.reset.block.txlen ≠ 2#3 ∧
    ({ Block.reset with txlen := 5#3 } : Block).txlen ≠ 2#3 := by decide
theorem witness_enc_cat : (0#8, catalogRow .reinit) ∈ catalogTable ∧ (16#8, catalogRow .getAscTarget) ∈ catalogTable ∧
    16 < (17#8 : Byte).toNat ∧ 16 < (255#8 : Byte).toNat := by decide
theorem witness_rx_byte : State.reset.block.rxlen.toNat < 9 ∧
    (loaded #v[1#8, 2#8, 3#8, 4#8, 5#8, 6#8, 7#8, 8#8, 0#8] 8#4).block.rxlen.toNat < 9 ∧
    (loaded #v[1#8, 2#8, 3#8, 4#8, 5#8, 6#8, 7#8, 8#8, 9#8] 9#4).block.rxlen = 9#4 := by decide
/-- Group 2 with its length just short, just there and not matching, and matching. -/
theorem witness_dec_word : 2 < (3#8 : Byte).toNat ∧
    ((2#8 : Byte).toNat ≤ 2 ∧ (loaded #v[1#8, 2#8, 3#8, 4#8, 5#8, 6#8, 7#8, 8#8, 0#8] 8#4).block.rxlen.toNat < 3 * (2#8 : Byte).toNat + 3) ∧
    (3 * (2#8 : Byte).toNat + 3 ≤ (loaded #v[0#8, 0#8, 0#8, 0#8, 0#8, 0#8, 0x3B#8, 0xF2#8, 0xC8#8] 9#4).block.rxlen.toNat ∧
      rxAt (loaded #v[0#8, 0#8, 0#8, 0#8, 0#8, 0#8, 0x3B#8, 0xF2#8, 0xC8#8] 9#4).block 8 = 0xC8#8 ∧ crc8 [0x3B#8, 0xF2#8] ≠ 0xC8#8) ∧
    crc8 [0x3B#8, 0xF2#8] = 0xC9#8 := by decide
theorem witness_dec_all : ((0#8 : Byte) ≠ 1#8 ∧ (0#8 : Byte) ≠ 3#8) ∧ ((2#8 : Byte) ≠ 1#8 ∧ (2#8 : Byte) ≠ 3#8) ∧
    ((loaded #v[3#8, 0xDB#8, 0x42#8, 0#8, 0#8, 0#8, 0#8, 0#8, 0#8] 4#4).block.rxlen.toNat ≠ 3 * (1#8 : Byte).toNat) ∧
    ((loaded #v[1#8, 2#8, 3#8, 4#8, 5#8, 6#8, 7#8, 8#8, 0#8] 8#4).block.rxlen.toNat ≠ 3 * (3#8 : Byte).toNat) ∧
    (2 < (3#8 : Byte).toNat ∧
      (∀ j < 2, groupCrc (loaded #v[0x66#8, 0xBF#8, 0x1F#8, 0xEF#8, 0x07#8, 0xF9#8, 0x3B#8, 0xF2#8, 0xC8#8] 9#4).block j =
        groupReceived (loaded #v[0x66#8, 0xBF#8, 0x1F#8, 0xEF#8, 0x07#8, 0xF9#8, 0x3B#8, 0xF2#8, 0xC8#8] 9#4).block j) ∧
      groupCrc (loaded #v[0x66#8, 0xBF#8, 0x1F#8, 0xEF#8, 0x07#8, 0xF9#8, 0x3B#8, 0xF2#8, 0xC8#8] 9#4).block 2 ≠
        groupReceived (loaded #v[0x66#8, 0xBF#8, 0x1F#8, 0xEF#8, 0x07#8, 0xF9#8, 0x3B#8, 0xF2#8, 0xC8#8] 9#4).block 2) ∧
    groupCrc (loaded #v[3#8, 0xDB#8, 0x42#8, 0#8, 0#8, 0#8, 0#8, 0#8, 0#8] 3#4).block 0 =
      groupReceived (loaded #v[3#8, 0xDB#8, 0x42#8, 0#8, 0#8, 0#8, 0#8, 0#8, 0#8] 3#4).block 0 ∧
    (∀ j < 3, groupCrc (loaded #v[0x66#8, 0xBF#8, 0x1F#8, 0xEF#8, 0x07#8, 0xF9#8, 0x3B#8, 0xF2#8, 0xC9#8] 9#4).block j =
      groupReceived (loaded #v[0x66#8, 0xBF#8, 0x1F#8, 0xEF#8, 0x07#8, 0xF9#8, 0x3B#8, 0xF2#8, 0xC9#8] 9#4).block j) := by decide
theorem witness_argument_frame_tail : (framed 0x24#8 0x27#8).block.txlen = 2#3 ∧
    ∃ t, exec (.encArg 0x079E#16) (framed 0x24#8 0x27#8) = .next t := ⟨rfl, _, rfl⟩
/-- A step after which a word is valid, and one after which none is. -/
theorem witness_valid_word : (∃ t, step (pushAction (.regWrite 0#6 0x32000000#32)
      (loaded #v[3#8, 0xDB#8, 0x42#8, 0#8, 0#8, 0#8, 0#8, 0#8, 0#8] 3#4)) = .next t ∧ t.block.wv[0] = true) ∧
    (∃ t, step (acting (.regWrite 0#6 0x00000000#32)) = .next t ∧ t.block.wv[2] = false) :=
  ⟨⟨_, rfl, rfl⟩, ⟨_, rfl, rfl⟩⟩
theorem witness_cvt_meas : ((decoded 0#16 0#16 0#16).block.wv[0] = true ∧ (decoded 0#16 0#16 0#16).block.wv[1] = true ∧
      (decoded 0#16 0#16 0#16).block.wv[2] = true) ∧ (∃ k : Fin 3, State.reset.block.wv[k] = false) := by decide
theorem witness_increasing : (0xFFFE#16 : Word).toNat < (0xFFFF#16 : Word).toNat := by decide
theorem witness_nonzero_word : (1#16 : Word) ≠ 0#16 := by decide
/-- A block that has everything in it: a 5-byte frame, a full response, a conversion, a catalog row, an error. -/
def busy : Block where
  crc := 0xE4#8
  txb := #v[0x24#8, 0x27#8, 0x07#8, 0x9E#8, 0x09#8]
  txlen := 5#3
  rxb := #v[0x01#8, 0xF4#8, 0x33#8, 0x33#8, 0x66#8, 0x03#8, 0x67#8, 0xA2#8, 0xE4#8]
  rxlen := 9#4
  w := #v[0x01F4#16, 0x3366#16, 0x67A2#16]
  wv := #v[true, true, true]
  co2 := 0x01F4#16
  temp := 0xC11DD22C#32
  rh := 0x4221EDC2#32
  mv := true
  catop := 0x2427#16
  respw := 0#2
  hasarg := true
  catdly := 1#32
  catv := true
  err := 5#3
  sticky := true
/-- The invariant of it, and a step from it. -/
theorem witness_block_invariant : BlockInv busy ∧
    ∃ t, step (pushAction (.regWrite 0#6 0x31000000#32) { State.reset with block := busy }) = .next t :=
  ⟨⟨.inr (.inr (by decide)), ⟨by decide, by decide⟩, fun _ => by decide, .inr ⟨rfl, .setSensorAltitude, rfl⟩, by decide,
    by decide⟩, _, rfl⟩
/-- By the word, and by the event. -/
theorem witness_sticky_cleared : (∃ s t : State, step s = .next t ∧ s.block.sticky = true ∧ t.block.sticky = false ∧
      true ∉ s.host.resets) ∧
    (∃ s t : State, step s = .next t ∧ s.block.sticky = true ∧ t.block.sticky = false ∧ s.host.pending = []) :=
  ⟨⟨pushAction (.regWrite 0#6 0x01000000#32) { State.reset with block := { Block.reset with sticky := true } }, _, rfl, rfl,
      rfl, by decide⟩,
    ⟨{ block := { Block.reset with sticky := true }, host := { HostSide.start with resets := [true] } }, _, rfl, rfl, rfl,
      rfl⟩⟩
theorem witness_error_changes_nothing : ∃ t, isOperation (.encArg 0#16) = true ∧ exec (.encArg 0#16) State.reset = .next t ∧
    t.block.err ≠ 0#3 ∧ t.block.err ≠ 1#3 := ⟨_, rfl, rfl, by decide, by decide⟩
/-- An operation that is none of the writers of any register, and one for each register's clause alone. -/
theorem witness_registers_frame : isOperation .nop = true ∧ (∃ t, exec .nop State.reset = .next t) ∧
    Instr.nop ∉ [Instr.crcInit, .clr] ∧ Instr.nop ∉ [Instr.clr, .rxClr] ∧ Instr.nop ∉ [Instr.clr, .cvtMeas] ∧
    (∀ b, Instr.nop ≠ .crcByte b) ∧ (∀ w, Instr.nop ≠ .crcWord w) ∧ (∀ v, Instr.nop ≠ .encArg v) ∧
    (∀ k, Instr.nop ≠ .decWord k) ∧ (∀ n, Instr.nop ≠ .decAll n) ∧ (∀ v, Instr.nop ≠ .encCmd v) ∧
    (∀ k, Instr.nop ≠ .encCat k) ∧ (∀ b, Instr.nop ≠ .rxByte b) :=
  ⟨rfl, ⟨_, rfl⟩, by decide, by decide, by decide, by simp, by simp, by simp, by simp, by simp, by simp, by simp, by simp⟩
theorem witness_repeated : isOperation (.decAll 1#8) = true ∧ (∀ b, Instr.decAll 1#8 ≠ .crcByte b) ∧
    (∀ b, Instr.decAll 1#8 ≠ .rxByte b) ∧ (∀ v, Instr.decAll 1#8 ≠ .encArg v) ∧
    ∃ t, exec (.decAll 1#8) State.reset = .next t := ⟨rfl, by simp, by simp, by simp, _, rfl⟩
theorem witness_rx_load : ([] : List Byte).length ≤ 9 ∧ p3.length ≤ 9 := by decide
/-- Three groups that match, and nine bytes whose last group does not. -/
theorem witness_read_meas : (crc8 [0x01#8, 0xF4#8] = 0x33#8 ∧ crc8 [0x33#8, 0x66#8] = 0x03#8 ∧
      crc8 [0x67#8, 0xA2#8] = 0xE4#8) ∧
    (p3.dropLast ++ [0xE5#8]).length = 9 ∧
    crc8 [(p3.dropLast ++ [0xE5#8]).getD 6 0#8, (p3.dropLast ++ [0xE5#8]).getD 7 0#8] ≠ (p3.dropLast ++ [0xE5#8]).getD 8 0#8 := by
  decide
/-- The commands whose write succeeds. -/
theorem witness_write_succeeds : (host .idle [.ok []]).host.replies = .ok [] :: [] ∧ (host .idle [.ok []]).host.resets = [] ∧
    ((Instr.reinit, WireCmd.reinit) ∈ [(Instr.reinit, WireCmd.reinit), (.persistSettings, .persistSettings)]) ∧
    ((Instr.wakeup, WireCmd.wakeup, SensorMode.idle, true) ∈ [(Instr.wakeup, WireCmd.wakeup, SensorMode.idle, true)]) ∧
    sessionAllows .reinit (host .idle [.ok []]).host = true ∧
    sessionAllows .startPeriodicMeasurement (host .idle [.ok []]).host = true ∧
    sessionAllows .stopPeriodicMeasurement (host .periodicMeasuring [.ok []]).host = true ∧
    sessionAllows .setAscTarget (host .idle [.ok []]).host = true :=
  ⟨rfl, rfl, by decide, by decide, allowed _ _ rfl, allowed _ _ rfl, allowed _ _ rfl, allowed _ _ rfl⟩
theorem witness_one_word : (host .idle [.ok [], .ok [0x03#8, 0xDB#8, 0x42#8]]).host.replies =
      .ok [] :: .ok [0x03#8, 0xDB#8, 0x42#8] :: [] ∧ crc8 [0x03#8, 0xDB#8] = 0x42#8 ∧
    (Instr.getAmbientPressure, WireCmd.getAmbientPressure, HostValue.pascals ((joinBytes 0x03#8 0xDB#8).toNat * 100)) ∈
      [(Instr.getAmbientPressure, WireCmd.getAmbientPressure, HostValue.pascals ((joinBytes 0x03#8 0xDB#8).toNat * 100))] := by
  decide
theorem witness_three_words : (host .periodicMeasuring [.ok [], .ok v4]).host.replies = .ok [] :: .ok v4 :: [] ∧
    crc8 [0x66#8, 0xBF#8] = 0x1F#8 ∧ crc8 [0xEF#8, 0x07#8] = 0xF9#8 ∧ crc8 [0x3B#8, 0xF2#8] = 0xC9#8 := by decide
theorem witness_single_shot : (host .idle [.ok [], .ok [], .ok [], .ok p3]).host.replies =
      .ok [] :: .ok [] :: .ok [] :: .ok p3 :: [] ∧
    crc8 [0x01#8, 0xF4#8] = 0x33#8 ∧ crc8 [0x33#8, 0x66#8] = 0x03#8 ∧ crc8 [0x67#8, 0xA2#8] = 0xE4#8 := by decide
theorem witness_failing_write : (host .idle [.error]).host.replies = .error :: [] ∧ (host .idle [.error]).host.resets = [] ∧
    (host .idle [.noReturn]).host.replies = .noReturn :: [] ∧
    wireOf (.setSensorAltitude 0x079E#16 0x09#8) = some .setSensorAltitude ∧
    WellFormed (.setSensorAltitude 0x079E#16 0x09#8) = true ∧
    encode (.setSensorAltitude 0x079E#16 0x09#8) = .frame [0x24#8, 0x27#8, 0x07#8, 0x9E#8, 0x09#8] ∧
    sessionAllows .setSensorAltitude (host .idle [.error]).host = true ∧
    (host .idle [.ok [], .ok [], .error]).host.replies = .ok [] :: .ok [] :: .error :: [] ∧
    (host .idle [.ok [], .ok [], .noReturn]).host.replies = .ok [] :: .ok [] :: .noReturn :: [] ∧
    sessionAllows .singleShotMeasurement (host .idle [.ok [], .ok [], .error]).host = true :=
  ⟨rfl, rfl, rfl, rfl, by decide, by decide, allowed _ _ rfl, rfl, rfl, allowed _ _ rfl⟩
/-- A read that fails, is short, or never returns. -/
theorem witness_failing_read : wireOf .getAmbientPressure = some .getAmbientPressure ∧
    (catalogRow .getAmbientPressure).respWords ≠ 0#2 ∧
    (host .idle [.ok [], .error]).host.replies = .ok [] :: .error :: [] ∧ (host .idle [.ok [], .error]).host.resets = [] ∧
    FailedRead .error 3 false (some (.error .ioRead)) false ∧
    FailedRead (.ok [0x03#8, 0xDB#8]) (3 * (catalogRow .getAmbientPressure).respWords.toNat) false (some (.error .ioRead)) false ∧
    FailedRead .noReturn 9 false none true ∧
    (host .idle [.ok [], .ok [], .ok [], .noReturn]).host.replies = .ok [] :: .ok [] :: .ok [] :: .noReturn :: [] :=
  ⟨rfl, by decide, rfl, rfl, .inl ⟨.inl rfl, rfl, rfl⟩, .inl ⟨.inr ⟨_, rfl, by decide⟩, rfl, rfl⟩, .inr ⟨rfl, rfl, rfl⟩, rfl⟩
/-- The last group of a response of three words does not match. -/
theorem witness_bad_group : wireOf .getSerialNumber = some .getSerialNumber ∧
    ([0x66#8, 0xBF#8, 0x1F#8, 0xEF#8, 0x07#8, 0xF9#8, 0x3B#8, 0xF2#8, 0xC8#8] : List Byte).length =
      3 * (catalogRow .getSerialNumber).respWords.toNat ∧
    2 < (catalogRow .getSerialNumber).respWords.toNat ∧ crc8 [0x3B#8, 0xF2#8] ≠ 0xC8#8 := by decide
/-- The last group of a single shot's response does not match. -/
theorem witness_bad_group_of_a_single_shot : ∃ s : State, s.host.resets = [] ∧
    s.host.replies = .ok [] :: .ok [] :: .ok [] :: .ok (p3.dropLast ++ [0xE5#8]) :: [] ∧
    (p3.dropLast ++ [0xE5#8]).length = 9 ∧ ¬ groupMatches (p3.dropLast ++ [0xE5#8]) 2 ∧
    sessionAllows .singleShotMeasurement s.host = true :=
  ⟨host .idle [.ok [], .ok [], .ok [], .ok (p3.dropLast ++ [0xE5#8])], rfl, rfl, by decide,
    by unfold groupMatches; decide, allowed _ _ rfl⟩
/-- A host whose transport will answer so, and these resets to come. -/
def resetting (m : SensorMode) (replies : List TransportReply) (resets : List Bool) : State :=
  { State.reset with host := { HostSide.start with mode := some m, replies := replies, resets := resets } }
/-- A reset before `ENC.ARG`, before `DEC.ALL` of one word, and before `CVT.MEAS`. -/
theorem witness_reset_inside_a_call :
    ((resetting .idle [] [false, true]).host.resets = [false, true] ∧
      sessionAllows .setAscTarget (resetting .idle [] [false, true]).host = true ∧
      wireOf (.setAscTarget 0x0190#16 0x4C#8) = some .setAscTarget ∧ (catalogRow .setAscTarget).hasArg = true) ∧
    ((resetting .idle [.ok [], .ok [0x03#8, 0xDB#8, 0x42#8]] (List.replicate 9 false ++ [true])).host.replies =
        .ok [] :: .ok [0x03#8, 0xDB#8, 0x42#8] :: [] ∧
      sessionAllows .getAmbientPressure (resetting .idle [.ok [], .ok [0x03#8, 0xDB#8, 0x42#8]] (List.replicate 9 false ++ [true])).host = true ∧
      wireOf .getAmbientPressure = some .getAmbientPressure ∧ (catalogRow .getAmbientPressure).respWords = 1#2) ∧
    ((resetting .periodicMeasuring [.ok [], .ok p3] (List.replicate 17 false ++ [true])).host.replies = .ok [] :: .ok p3 :: [] ∧
      sessionAllows .readMeasurement (resetting .periodicMeasuring [.ok [], .ok p3] (List.replicate 17 false ++ [true])).host = true ∧
      p3.length = 9 ∧ ∀ k < 3, groupMatches p3 k) :=
  ⟨⟨rfl, allowed _ _ rfl, rfl, rfl⟩, ⟨rfl, allowed _ _ rfl, rfl, rfl⟩, rfl, allowed _ _ rfl, rfl, by unfold groupMatches; decide⟩
/-- A call that returns a value although a reset fell inside it, after the frame was written. -/
theorem witness_value_with_a_reset_inside : ∃ t, exec .getAmbientPressure
      (resetting .idle [.ok [], .ok [0x03#8, 0xDB#8, 0x42#8]] (List.replicate 5 false ++ [true])) = .next t ∧
    t.host.result = some (.ok (.pascals 98700)) := by
  refine ⟨_, rfl, ?_⟩
  rw [call_is_body _ _ _ (allowed _ _ rfl)]
  rfl
/-- A single shot that returns a value. -/
theorem witness_single_shot_value : ∃ t v, exec .singleShotMeasurement (host .idle [.ok [], .ok [], .ok [], .ok p3]) = .next t ∧
    t.host.result = some (.ok v) := by
  refine ⟨_, .measurement 0x01F4#16 (tempF32 0x3366#16) (rhF32 0x67A2#16), rfl, ?_⟩
  rw [call_is_body _ _ _ (allowed _ _ rfl)]
  cases h : Config.strictSession <;> (simp only [singleShotBody, leadingTo, noteMode, h, if_true]; rfl)
theorem witness_failing_wakeup : (host .idle [.ok [], .error]).host.replies = .ok [] :: .error :: [] ∧
    (host .idle [.ok [], .noReturn]).host.replies = .ok [] :: .noReturn :: [] ∧ (host .idle [.ok [], .error]).host.resets = [] ∧
    sessionAllows .singleShotMeasurement (host .idle [.ok [], .error]).host = true := ⟨rfl, rfl, rfl, allowed _ _ rfl⟩
theorem witness_forbidden_call : wireOf .reinit = some .reinit ∧
    modeAllows .reinit (host .periodicMeasuring []).host = false ∧ modeAllows .reinit State.reset.host = false := by decide
theorem witness_frame_on_the_wire : wireOf .getAscTarget = some .getAscTarget ∧ WellFormed .getAscTarget = true ∧
    encode .getAscTarget = .frame [0x23#8, 0x3F#8] := by decide
theorem witness_exec_answers : ∃ t, exec .singleShotMeasurement State.reset = .next t := ⟨_, rfl⟩
theorem witness_host_coded : resetDue (acting (.api (.setAmbientPressure 98700))).host = false ∧
    (acting (.api (.setAmbientPressure 98700))).host.hung = false ∧
    (acting (.api (.setAmbientPressure 98700))).host.pending = .api (.setAmbientPressure 98700) :: [] ∧
    (acting (.api (.setAscEnabled 1))).host.pending = .api (.setAscEnabled 1) :: [] ∧
    (acting (.api (.setAscTarget 400))).host.pending = .api (.setAscTarget 400) :: [] := by decide
/-- The host's next action, with what the transport will answer. -/
def doing (a : HostAction) (replies : List TransportReply) : State :=
  { State.reset with host := { HostSide.start with pending := [a], replies := replies } }
theorem witness_parts : (doing .send [.ok []]).host.resets = [] ∧ (doing .send [.ok []]).host.hung = false ∧
    (doing .send [.ok []]).host.pending = .send :: [] ∧ (doing .send [.ok []]).host.replies = .ok [] :: [] ∧
    (doing .send [.error]).host.replies = .error :: [] ∧ (doing .send [.noReturn]).host.replies = .noReturn :: [] ∧
    (doing (.sleep 0#32) []).host.pending = .sleep 0#32 :: [] ∧
    (doing (.receive 9) [.ok p3]).host.pending = .receive p3.length :: [] ∧
    (doing (.receive 9) [.ok p3]).host.replies = .ok p3 :: [] ∧
    (doing (.receive 10) [.ok (0#8 :: p3)]).host.pending = .receive (0#8 :: p3).length :: [] := by decide
/-- R113, R153: the tenth byte raises `LENGTH`, which ends the part with an error. -/
theorem test_receive_ten_bytes : (hst (step (doing (.receive 10) [.ok (0#8 :: p3)]))).map (·.result) =
    some (some (.error (Config.statusErrorKind 0x0000000C#32))) := rfl
theorem test_receive_nine_bytes : (hst (step (doing (.receive 9) [.ok p3]))).map (·.result) = some (some (.ok .done)) := rfl
/-- R163 under `STRICT_SESSION`: after a restart a stop is allowed, and after the `wakeup` too, before a start. -/
theorem test_stop_before_start : modeAllows .stopPeriodicMeasurement HostSide.start = true ∧
    modeAllows .stopPeriodicMeasurement { HostSide.start with mode := some .idle } = true ∧
    modeAllows .stopPeriodicMeasurement { HostSide.start with mode := some .idle, stopOwed := false } = false := by decide
/-- R160: the event reaches a block whose host is stuck. -/
theorem test_reset_of_a_stuck_host : (blk (step { stuckAndReset with block := busy })) = some Block.reset := by decide
/-- 93 U6: a stuck host takes no action, and the block is idle. -/
theorem test_stuck_host_waits : step { stuckAndReset with host := { stuckAndReset.host with resets := [] } } =
    .next { stuckAndReset with host := { stuckAndReset.host with resets := [] } } := rfl
/-- R160: a reset inside an exchange, after `ENC.CAT`: the host finds no frame in `TXB`. -/
theorem test_reset_inside_an_exchange : (readFrame (encodeCommand .reinit
    { State.reset with host := { HostSide.start with resets := [false, true] } })).1 = [] := by decide
/-- R153, R168: `SEQ` of `CVT.MEAS` after a reset is returned, not swallowed. -/
theorem test_seq_after_a_reset : (trusted (·.mv) measurementView { decoded 0x01F4#16 0x3366#16 0x67A2#16 with
      host := { HostSide.start with resets := [true] } }) =
    .error (Config.statusErrorKind 0x0000000A#32) ⟨resetThenError 2#3, { HostSide.start with resets := [] }⟩ := rfl
/-- R153, R168: a reset after the frame was built leaves no frame to send, and nothing is written. -/
theorem test_no_frame_no_write : (sendFrame (encodeCommand .reinit
    { State.reset with host := { HostSide.start with resets := [false, true] } })) =
    .error (Config.statusErrorKind 0x00000000#32) State.reset := rfl

end Sys2Proof.Tests
end

/-! PROOFS. The block's invariants, its views, the register interface, the step, the reset and the write sets of the
operations (spec/10_state.md). -/

namespace Sys2Proof.Machine

/-! ## The invariants of the block (R28) -/

/-- The clauses of R28 that do not speak of `ERR` and `STICKY`: the ending of an operation does not touch them. -/
structure DataInv (b : Block) : Prop where
  tx : TxInv b
  rx : RxInv b
  meas : MeasInv b
  cat : CatInv b

theorem blockInv_iff (b : Block) : BlockInv b ↔ DataInv b ∧ ErrInv b :=
  ⟨fun ⟨tx, rx, meas, cat, err⟩ => ⟨⟨tx, rx, meas, cat⟩, err⟩,
    fun ⟨⟨tx, rx, meas, cat⟩, err⟩ => ⟨tx, rx, meas, cat, err⟩⟩

theorem errorCode_toNat_le (e : BlockError) : (errorCode e).toNat ≤ 5 := by cases e <;> decide

/-- R28 clause 6 holds after every operation, however it ends: `OK` writes 0, a raised error sets `STICKY`. -/
theorem errInv_finish (e : OpEnd) : ErrInv (finish e) := by
  cases e with
  | done b => exact ⟨fun h => absurd rfl h, by simp⟩
  | raised e b => exact ⟨fun _ => rfl, errorCode_toNat_le e⟩

theorem blockInv_done {b : Block} (h : DataInv b) : BlockInv (finish (.done b)) :=
  ⟨h.tx, h.rx, h.meas, h.cat, errInv_finish (.done b)⟩

theorem blockInv_raised {e : BlockError} {b : Block} (h : DataInv b) : BlockInv (finish (.raised e b)) :=
  ⟨h.tx, h.rx, h.meas, h.cat, errInv_finish (.raised e b)⟩

/-- Without a valid measurement, R28 clause 4 claims nothing. -/
theorem measInv_of_not_mv {b : Block} (h : b.mv = false) : MeasInv b := fun hmv => by simp [h] at hmv

theorem txInv_putCommand (v : Word) (b : Block) : TxInv (putCommand v b) := .inr (.inl ⟨rfl, rfl, rfl, rfl⟩)

theorem txInv_putArgument (v : Word) (b : Block) : TxInv (putArgument v (crcOfWord v) b) := .inr (.inr ⟨rfl, rfl⟩)

theorem rxInv_emptyResponse (b : Block) : RxInv (emptyResponse b) :=
  ⟨by simp, fun i _ => by fin_cases i <;> rfl⟩

/-- A byte pushed to a buffer that is not full moves `RXLEN` past it, and the bytes further on are as they were. -/
theorem rxInv_pushByte {v : Byte} {b : Block} (h : RxInv b) (hroom : b.rxlen.toNat < 9) : RxInv (pushByte v b) := by
  obtain ⟨_, htail⟩ := h
  have hlen : (b.rxlen + 1#4).toNat = b.rxlen.toNat + 1 := by simp [BitVec.toNat_add]; omega
  refine ⟨by simp only [pushByte_rxlen, hlen]; omega, fun i hi => ?_⟩
  simp only [pushByte_rxlen, hlen] at hi
  have hne : b.rxlen.toNat ≠ i.val := by omega
  simpa [Vector.getElem_setIfInBounds, hne] using htail i (by omega)

/-- What the catalog holds at an index is the row of a command (R105). -/
theorem catalogAt_eq_some {i : Byte} {row : CatRow} (h : catalogAt i = some row) : ∃ c, row = catalogRow c := by
  obtain ⟨c, _, hc⟩ := Option.map_eq_some_iff.mp h
  exact ⟨c, hc.symm⟩

theorem catInv_publishRow (c : WireCmd) (b : Block) : CatInv (publishRow (catalogRow c) b) := .inr ⟨rfl, c, rfl⟩

theorem dataInv_reset : DataInv Block.reset where
  tx := .inl ⟨rfl, by decide⟩
  rx := ⟨by decide, by decide⟩
  meas := measInv_of_not_mv rfl
  cat := .inl ⟨rfl, rfl, rfl, rfl, rfl⟩

theorem blockInv_reset : BlockInv Block.reset := (blockInv_iff _).mpr ⟨dataInv_reset, ⟨by decide, by decide⟩⟩

/-! What each operation that can fail, or that writes a register of R28, does to the invariants. -/

theorem blockInv_opEncArg {b : Block} (v : Word) (h : DataInv b) : BlockInv (finish (opEncArg v b)) := by
  rcases opEncArg_cases v b with ⟨_, e⟩ | ⟨_, e⟩ <;> rw [e]
  · exact blockInv_done ⟨txInv_putArgument v _, h.rx, h.meas, h.cat⟩
  · exact blockInv_raised h

theorem blockInv_opEncCat {b : Block} (i : Byte) (h : DataInv b) : BlockInv (finish (opEncCat i b)) := by
  rcases opEncCat_cases i b with ⟨row, hrow, e⟩ | ⟨_, e⟩ <;> rw [e]
  · obtain ⟨c, rfl⟩ := catalogAt_eq_some hrow
    exact blockInv_done ⟨txInv_putCommand _ _, h.rx, h.meas, catInv_publishRow c b⟩
  · exact blockInv_raised h

theorem blockInv_opRxByte {b : Block} (v : Byte) (h : DataInv b) : BlockInv (finish (opRxByte v b)) := by
  rcases opRxByte_cases v b with ⟨hroom, e⟩ | ⟨_, e⟩ <;> rw [e]
  · exact blockInv_done ⟨h.tx, rxInv_pushByte h.rx hroom, h.meas, h.cat⟩
  · exact blockInv_raised h

/-- `DEC.WORD` clears `MV` before it writes any word (R114). -/
theorem blockInv_opDecWord {b : Block} (k : Byte) (h : DataInv b) : BlockInv (finish (opDecWord k b)) := by
  rcases opDecWord_cases k b with ⟨_, e⟩ | ⟨_, _, e⟩ | ⟨_, _, _, e⟩ | ⟨_, _, _, e⟩ <;> rw [e]
  · exact blockInv_raised h
  · exact blockInv_raised h
  · exact blockInv_raised ⟨h.tx, h.rx, measInv_of_not_mv rfl, h.cat⟩
  · exact blockInv_done ⟨h.tx, h.rx, measInv_of_not_mv rfl, h.cat⟩

/-- `DEC.ALL` clears `MV` before it writes any word (R115). -/
theorem blockInv_opDecAll {b : Block} (n : Byte) (h : DataInv b) : BlockInv (finish (opDecAll n b)) := by
  rcases opDecAll_cases n b with ⟨_, e⟩ | ⟨_, _, e⟩ | ⟨_, _, _, e⟩ | ⟨_, _, _, e⟩ <;> rw [e]
  · exact blockInv_raised h
  · exact blockInv_raised h
  · exact blockInv_raised ⟨h.tx, h.rx, measInv_of_not_mv rfl, h.cat⟩
  · rw [storeGroups_frame]
    exact blockInv_done ⟨h.tx, h.rx, measInv_of_not_mv rfl, h.cat⟩

theorem blockInv_opCvtMeas {b : Block} (h : DataInv b) : BlockInv (finish (opCvtMeas b)) := by
  rcases opCvtMeas_cases b with ⟨hvalid, e⟩ | ⟨_, e⟩ <;> rw [e]
  · exact blockInv_done ⟨h.tx, h.rx, fun _ => ⟨hvalid, rfl, rfl, rfl⟩, h.cat⟩
  · exact blockInv_raised h

/-- Every change of the block keeps its invariants. -/
theorem BlockStep.keeps_blockInv {b b' : Block} (hstep : BlockStep b b') (hb : BlockInv b) : BlockInv b' := by
  have h := ((blockInv_iff b).mp hb).1
  cases hstep with
  | nop => exact blockInv_done h
  | clr => exact blockInv_done dataInv_reset
  | crcInit => exact blockInv_done ⟨h.tx, h.rx, h.meas, h.cat⟩
  | crcByte v => exact blockInv_done ⟨h.tx, h.rx, h.meas, h.cat⟩
  | crcWord v => exact blockInv_done ⟨h.tx, h.rx, h.meas, h.cat⟩
  | encCmd v => exact blockInv_done ⟨txInv_putCommand v b, h.rx, h.meas, h.cat⟩
  | encArg v => exact blockInv_opEncArg v h
  | encCat i => exact blockInv_opEncCat i h
  | rxClr => exact blockInv_done ⟨h.tx, rxInv_emptyResponse b, h.meas, h.cat⟩
  | rxByte v => exact blockInv_opRxByte v h
  | decWord k => exact blockInv_opDecWord k h
  | decAll n => exact blockInv_opDecAll n h
  | cvtMeas => exact blockInv_opCvtMeas h
  | illegal => exact blockInv_raised h
  | reset => exact blockInv_reset

/-- Settles O35: a step is a chain of changes of the block (`step_reaches`), and each change keeps the invariants. -/
theorem blockInvariantIsKept : Obligations.BlockInvariantIsKept :=
  fun s t hinv hstep => (step_reaches s t hstep).keeps (fun _ _ => BlockStep.keeps_blockInv) hinv

/-- Settles O36: the buffers are empty, nothing is valid or selected, and there is no error. -/
theorem blockInvariantHoldsAtReset : Obligations.BlockInvariantHoldsAtReset := blockInv_reset

/-! ## The views `STATUS` and `CATINFO` (R14, R23) -/

theorem getLsbD_setWidth_of_le {w v : Nat} (h : w ≤ v) (x : BitVec w) (i : Nat) :
    (x.setWidth v).getLsbD i = x.getLsbD i := by
  rw [BitVec.getLsbD_setWidth]
  by_cases hi : i < v
  · simp [hi]
  · simp [hi, BitVec.getLsbD_of_ge x i (by omega)]

/-- A flag stands in its place and nowhere else. -/
theorem getLsbD_flagBit {place : Nat} (hplace : place < 32) (v : Bool) (i : Nat) :
    (flagBit place v).getLsbD i = (decide (i = place) && v) := by
  rcases Nat.lt_trichotomy i place with hlt | rfl | hgt
  · simp [flagBit, hlt, hlt.ne]
  · simp [flagBit, hplace]
  · have hsub : i - place ≠ 0 := by omega
    simp [flagBit, hgt.ne', BitVec.getLsbD_ofBool, hsub]

/-- R14, bit by bit. -/
theorem getLsbD_statusWord (b : Block) (i : Nat) : (statusWord b).getLsbD i =
    (b.err.getLsbD i || decide (i = 3) && b.sticky || decide (i = 4) && b.wv[0] || decide (i = 5) && b.wv[1]
      || decide (i = 6) && b.wv[2] || decide (i = 7) && b.mv || decide (i = 8) && b.catv) := by
  simp (disch := decide) only [statusWord, BitVec.getLsbD_or, getLsbD_setWidth_of_le, getLsbD_flagBit]

/-- R23, bit by bit. -/
theorem getLsbD_catInfoWord (b : Block) (i : Nat) :
    (catInfoWord b).getLsbD i = (b.respw.getLsbD i || decide (i = 2) && b.hasarg) := by
  simp (disch := decide) only [catInfoWord, BitVec.getLsbD_or, getLsbD_setWidth_of_le, getLsbD_flagBit]

theorem extractLsb'_statusWord (b : Block) : (statusWord b).extractLsb' 0 3 = b.err := by
  apply BitVec.eq_of_getLsbD_eq
  intro i hi
  have : i ≠ 3 ∧ i ≠ 4 ∧ i ≠ 5 ∧ i ≠ 6 ∧ i ≠ 7 ∧ i ≠ 8 := by omega
  simp [getLsbD_statusWord, hi, this]

theorem extractLsb'_catInfoWord (b : Block) : (catInfoWord b).extractLsb' 0 2 = b.respw := by
  apply BitVec.eq_of_getLsbD_eq
  intro i hi
  simp [getLsbD_catInfoWord, hi, hi.ne]

/-- Settles O2, bit by bit; beyond the fields no flag stands, and `ERR` and `RESPW` have no such bits. -/
theorem statusAndCatInfoFieldsStandInTheirPlaces : Obligations.StatusAndCatInfoFieldsStandInTheirPlaces := by
  intro b
  refine ⟨extractLsb'_statusWord b, ?_, ?_, ?_, ?_, ?_, ?_, fun i hi => ?_, extractLsb'_catInfoWord b, ?_, fun i hi => ?_⟩
  case _ | _ | _ | _ | _ | _ => rw [getLsbD_statusWord]; simp
  · have : i ≠ 3 ∧ i ≠ 4 ∧ i ≠ 5 ∧ i ≠ 6 ∧ i ≠ 7 ∧ i ≠ 8 := by omega
    simp [getLsbD_statusWord, BitVec.getLsbD_of_ge b.err i (by omega), this]
  · rw [getLsbD_catInfoWord]; simp
  · have : i ≠ 2 := by omega
    simp [getLsbD_catInfoWord, BitVec.getLsbD_of_ge b.respw i (by omega), this]

/-! ## A step by its cases (R12, R50, R160) -/

theorem step_of_resetDue {s : State} (hdue : resetDue s.host = true) : step s = .next (accessPoint s) := by
  rcases step_cases s with ⟨_, e⟩ | ⟨hd, _⟩ | ⟨_, _, hd, _⟩
  · exact e
  · simp [hdue] at hd
  · simp [hdue] at hd

section
variable {s : State} (hdue : resetDue s.host = false)
include hdue

theorem accessPoint_of_not_resetDue :
    accessPoint s = { s with host := { s.host with resets := s.host.resets.tail } } := by
  simp [accessPoint, hdue]

theorem step_of_waiting (hwait : s.host.hung = true ∨ s.host.pending = []) :
    step s = .next { s with host := { s.host with resets := s.host.resets.tail } } := by
  rw [← accessPoint_of_not_resetDue hdue]
  rcases step_cases s with ⟨_, e⟩ | ⟨_, _, e⟩ | ⟨a, rest, _, hh, hp, _⟩
  · exact e
  · exact e
  · simp [hh, hp] at hwait

theorem step_of_pending {a : HostAction} {rest : List HostAction} (hfree : s.host.hung = false)
    (hpending : s.host.pending = a :: rest) :
    step s = perform a { s with host := { s.host with pending := rest, resets := s.host.resets.tail } } := by
  rcases step_cases s with ⟨hd, _⟩ | ⟨_, hw, _⟩ | ⟨a', rest', _, _, hp, e⟩
  · simp [hdue] at hd
  · simp [hfree, hpending] at hw
  · obtain ⟨rfl, rfl⟩ := List.cons.inj (hpending.symm.trans hp)
    exact e

end

/-- Settles O5, by the cases of a step; a second host's action is refused by `perform`. -/
theorem stepWaitsAndRefusesASecondHost : Obligations.StepWaitsAndRefusesASecondHost :=
  fun _ hdue => ⟨step_of_waiting hdue, fun _ hfree hpending => step_of_pending hdue hfree hpending⟩

/-! ## The register interface (R11, R32, R33) -/

/-- Each register of the register map reads as the map says. -/
theorem regValue_of_mem_registerMap {n : RegNum} {v : Word32} {b : Block} (h : (n, v) ∈ registerMap b) :
    regValue n b = .ok v := by
  have hall : ∀ r ∈ registerMap b, regValue r.1 b = .ok r.2 := by simp [registerMap, regValue]
  exact hall (n, v) h

theorem regValue_cmd (b : Block) : regValue 0#6 b = .error .readOfCmd := rfl

/-- A register number is that of `CMD`, a reserved one or that of a readable register, and the read answers accordingly. -/
theorem regValue_cases (n : RegNum) (b : Block) :
    (n = 0#6 ∧ regValue n b = .error .readOfCmd) ∨
    (reservedNumber n = true ∧ regValue n b = .error (.reservedRegister n)) ∨
    (n ≠ 0#6 ∧ reservedNumber n = false ∧ ∃ v, regValue n b = .ok v) := by
  unfold regValue
  split
  case h_1 h => exact .inl ⟨BitVec.eq_of_toNat_eq h, rfl⟩
  case h_20 =>
    refine .inr (.inl ⟨?_, rfl⟩)
    simp only [imp_false] at *
    simp only [reservedNumber, Bool.or_eq_true, Bool.and_eq_true, decide_eq_true_eq, beq_iff_eq]
    omega
  all_goals
    refine .inr (.inr ⟨?_, ?_, _, rfl⟩)
    · rintro rfl; contradiction
    · simp [reservedNumber, *]

theorem regValue_of_reservedNumber {n : RegNum} (hn : reservedNumber n = true) (b : Block) :
    regValue n b = .error (.reservedRegister n) := by
  rcases regValue_cases n b with ⟨rfl, _⟩ | ⟨_, e⟩ | ⟨_, hres, _⟩
  · simp [reservedNumber] at hn
  · exact e
  · simp [hn] at hres

theorem perform_regRead_error {n : RegNum} {s : State} {r : Refusal} (h : regValue n s.block = .error r) :
    perform (.regRead n) s = .refused r := by
  simp only [perform, performRead, h]

theorem perform_regRead_ok {n : RegNum} {s : State} {v : Word32} (h : regValue n s.block = .ok v) :
    perform (.regRead n) s = .next { s with host := { s.host with readData := some v } } := by
  simp only [perform, performRead, h]

/-- Only `CMD` accepts a write. -/
theorem perform_regWrite_of_ne_cmd {n : RegNum} (hn : n ≠ 0#6) (v : Word32) (s : State) : perform (.regWrite n v) s =
    .refused (if reservedNumber n then .reservedRegister n else .writeToReadOnly n) := by
  rcases regValue_cases n s.block with ⟨h0, _⟩ | ⟨hres, e⟩ | ⟨_, hres, w, e⟩
  · exact absurd h0 hn
  · simp [perform, performWrite, hn, writeRefusal, hres, e]
  · simp [perform, performWrite, hn, writeRefusal, hres, e]

/-- Settles O3: the step performs the read, which answers as the register map says. -/
theorem registerReadsReturnTheMappedValue : Obligations.RegisterReadsReturnTheMappedValue := by
  intro s rest n v hdue hfree hpending hmap
  rw [step_of_pending hdue hfree hpending]
  exact perform_regRead_ok (regValue_of_mem_registerMap hmap)

/-- Settles O4: the step performs the access, whose answer the kind of its register number decides. -/
theorem accessesOutsideTheContractAreRefused : Obligations.AccessesOutsideTheContractAreRefused := by
  intro s rest hdue hfree
  refine ⟨fun hpending => ?_, fun n hn hpending => ?_, fun n v hn hpending => ?_⟩ <;>
    rw [step_of_pending hdue hfree hpending]
  · exact perform_regRead_error (regValue_cmd _)
  · exact perform_regRead_error (regValue_of_reservedNumber hn _)
  · exact perform_regWrite_of_ne_cmd hn v _

/-! ## Instructions at the step (R13, R63 to R65, R70, R138) -/

theorem operationMap_eq_opRows : operationMap = opRows.map fun r => (r.pattern, r.mask) := rfl

/-- A word of no row of the operation map does not decode: the decoder answers only where its row's fixed bits stand. -/
theorem decodeWord_of_no_row {v : Word32} (hno : ∀ r ∈ operationMap, v &&& r.2 ≠ r.1) : ∃ e, decodeWord v = .error e := by
  unfold decodeWord
  split
  · exact ⟨_, rfl⟩
  next r hfind =>
    have hrow : (r.pattern, r.mask) ∈ operationMap := by
      rw [operationMap_eq_opRows]
      exact List.mem_map.mpr ⟨r, List.mem_of_find?_eq_some hfind, rfl⟩
    exact ⟨_, if_neg (hno _ hrow)⟩

theorem illegalWord_of_no_row {v : Word32} (hno : ∀ r ∈ operationMap, v &&& r.2 ≠ r.1) : IllegalWord v := by
  intro s
  obtain ⟨e, he⟩ := decodeWord_of_no_row hno
  simp only [performWord, he]
  rfl

/-- Performing the action that hands the machine an encoding runs the instruction it decodes to. -/
theorem perform_fetchAction {e : Encoded} {i : Instr} (h : decode e = .ok i) (s : State) :
    perform (fetchAction e) s = exec i s := by
  cases e with
  | opw v =>
    have hv : decodeWord v = .ok i := h
    simp [fetchAction, perform, performWrite, performWord, hv]
  | frame bytes =>
    have hb : decodeFrame bytes = .ok i := h
    simp [fetchAction, perform, performFrame, hb]

/-- Settles O6: the step performs the host's action, whose word or frame the decoder answers or, without a row, refuses. -/
theorem stepRunsTheDecodedInstruction : Obligations.StepRunsTheDecodedInstruction := by
  intro s rest hdue hfree
  refine ⟨fun e i hpending hdecode => ?_, fun v hpending hno => ?_⟩ <;> rw [step_of_pending hdue hfree hpending]
  · exact perform_fetchAction hdecode _
  · exact illegalWord_of_no_row hno _

/-! ## Reset (R29, R136, R160) -/

theorem atResetValues_reset : AtResetValues Block.reset :=
  ⟨rfl, by decide, rfl, by decide, rfl, by decide, by decide, rfl, rfl, rfl, rfl, rfl, rfl, rfl, rfl, rfl, rfl, rfl,
    rfl, rfl⟩

/-- The body of a call begins with an access of the block, so a reset before it is one at that access. -/
def BeginsWithAccess {α : Type} (body : State → Exchange α) : Prop :=
  ∀ s s' : State, accessPoint s = accessPoint s' → body s = body s'

theorem encodeCommand_congr (c : WireCmd) {s s' : State} (h : accessPoint s = accessPoint s') :
    encodeCommand c s = encodeCommand c s' := congrArg (operate _) h

theorem plainBody_beginsWithAccess (c : WireCmd) : BeginsWithAccess (plainBody c) := fun s s' h => by
  simp only [plainBody, encodeCommand_congr c h]

theorem argumentBody_beginsWithAccess (c : WireCmd) (arg : Word) : BeginsWithAccess (argumentBody c arg) :=
  fun s s' h => by simp only [argumentBody, encodeWithArgument, encodeCommand_congr c h]

theorem responseBody_beginsWithAccess (c : WireCmd) (valid : Block → Bool) (view : State → HostValue × State) :
    BeginsWithAccess (responseBody c valid view) := fun s s' h => by
  simp only [responseBody, exchangeWithResponse, encodeCommand_congr c h]

theorem singleShotBody_beginsWithAccess : BeginsWithAccess singleShotBody := fun s s' h => by
  simp only [singleShotBody, encodeCommand_congr _ h]

theorem BeginsWithAccess.leadingTo {α : Type} {body : State → Exchange α} (h : BeginsWithAccess body) (m : SensorMode)
    (keeps : Bool) : BeginsWithAccess fun s => leadingTo m keeps (body s) := fun s s' hs => by
  simp only [h s s' hs]

/-- A wire instruction is a host call of its command, and the body begins with an access of the block. -/
theorem exec_eq_hostCall {i : Instr} {c : WireCmd} (h : wireOf i = some c) :
    ∃ body, BeginsWithAccess body ∧ ∀ s, exec i s = .next (hostCall c body s) := by
  cases i <;> cases h
  case reinit | persistSettings => exact ⟨_, plainBody_beginsWithAccess _, fun _ => rfl⟩
  case wakeup | startPeriodicMeasurement | stopPeriodicMeasurement =>
    exact ⟨_, (plainBody_beginsWithAccess _).leadingTo _ _, fun _ => rfl⟩
  case setSensorAltitude | setAmbientPressure | setAscEnabled | setAscTarget =>
    exact ⟨_, argumentBody_beginsWithAccess _ _, fun _ => rfl⟩
  case singleShotMeasurement => exact ⟨_, singleShotBody_beginsWithAccess, fun _ => rfl⟩
  all_goals exact ⟨_, responseBody_beginsWithAccess _ _ _, fun _ => rfl⟩

theorem hostCall_congr {c : WireCmd} {body : State → Exchange HostValue} {s s' : State}
    (hs : sessionAllows c s.host = true) (hs' : sessionAllows c s'.host = true) (h : body s = body s') :
    hostCall c body s = hostCall c body s' := by
  rw [hostCall, hostCall, if_pos hs, if_pos hs', h]

/-- The reset event that is due arrives. -/
theorem accessPoint_of_reset {s : State} {rest : List Bool} (h : s.host.resets = true :: rest) :
    accessPoint s = { block := Block.reset, host := { s.host with resets := rest } } := by
  simp [accessPoint, resetDue, h]

/-- A wire command before whose first access a reset comes is performed on the reset block. -/
theorem exec_wire_of_reset {s : State} {rest : List Bool} {i : Instr} {c : WireCmd} (hwire : wireOf i = some c)
    (hallowed : sessionAllows c s.host = true) (hreset : s.host.resets = true :: rest) :
    exec i s = exec i { block := Block.reset, host := { s.host with resets := false :: rest } } := by
  obtain ⟨body, hbody, hexec⟩ := exec_eq_hostCall hwire
  rw [hexec, hexec]
  exact congrArg _ (hostCall_congr hallowed hallowed (hbody _ _ (accessPoint_of_reset hreset)))

/-- Settles O1: the event and `CLR` give the reset block; a wire command's first access is where a reset before it falls. -/
theorem resetAndClrLeaveEveryRegisterAtItsValue : Obligations.ResetAndClrLeaveEveryRegisterAtItsValue := by
  refine ⟨atResetValues_reset, fun s rest hreset => ?_, fun s => ?_, fun s rest i c => exec_wire_of_reset⟩
  · refine ⟨_, step_of_resetDue (by simp [resetDue, hreset]), ?_, ?_⟩ <;> rw [accessPoint_of_reset hreset]
    exact atResetValues_reset
  · exact ⟨_, rfl, atResetValues_reset, rfl⟩

/-! ## Which operation writes which register (R15 to R18, R26) -/

/-- Settles O39: each operation ends in one of the blocks its law lists, whose fields the update laws give. -/
theorem registersAreChangedOnlyByTheirWriters : Obligations.RegistersAreChangedOnlyByTheirWriters := by
  intro i s t hop h
  cases i <;> cases hop
  all_goals
    injection h with h
    subst h
    refine ⟨rfl, ?_⟩
    rw [operate_block]
  case nop => simp [opNop]
  case clr => simp
  case crcInit => simp [opCrcInit]
  case crcByte v => simp [opCrcByte]
  case crcWord v => simp [opCrcWord]
  case encCmd v => simp [opEncCmd]
  case encArg v => rcases opEncArg_cases v s.block with ⟨_, e⟩ | ⟨_, e⟩ <;> simp [e]
  case encCat k => rcases opEncCat_cases k s.block with ⟨_, _, e⟩ | ⟨_, e⟩ <;> simp [e]
  case rxClr => simp [opRxClr]
  case rxByte v => rcases opRxByte_cases v s.block with ⟨_, e⟩ | ⟨_, e⟩ <;> simp [e]
  case decWord k =>
    rcases opDecWord_cases k s.block with ⟨_, e⟩ | ⟨_, _, e⟩ | ⟨_, _, _, e⟩ | ⟨_, _, _, e⟩ <;> simp [e]
  case decAll n =>
    rcases opDecAll_cases n s.block with ⟨_, e⟩ | ⟨_, _, e⟩ | ⟨_, _, _, e⟩ | ⟨_, _, _, e⟩ <;> rw [e]
    case inr.inr.inr => rw [storeGroups_frame]; simp
    all_goals simp
  case cvtMeas => rcases opCvtMeas_cases s.block with ⟨_, e⟩ | ⟨_, e⟩ <;> simp [e]

end Sys2Proof.Machine

/-! PROOFS. Operations performed again at once (spec/20_memory.md R47). -/

namespace Sys2Proof.Machine

/-! ## Operations that leave the block as they left it the first time (R47) -/

/-- Performed again at once, the operation changes nothing further. -/
def Repeatable (op : Block → OpEnd) : Prop := ∀ b, finish (op (finish (op b))) = finish (op b)

theorem Repeatable.next_operate {op : Block → OpEnd} (h : Repeatable op) (s : State) :
    (.next (operate op (operate op s)) : Host.Outcome State Fault Refusal) = .next (operate op s) := by
  simp only [operate, h s.block]

theorem repeatable_opNop : Repeatable opNop := fun _ => rfl

theorem repeatable_opClr : Repeatable opClr := fun _ => rfl

theorem repeatable_opCrcInit : Repeatable opCrcInit := fun _ => rfl

theorem repeatable_opCrcWord (v : Word) : Repeatable (opCrcWord v) := fun _ => rfl

theorem repeatable_opEncCmd (v : Word) : Repeatable (opEncCmd v) := fun _ => rfl

theorem repeatable_opRxClr : Repeatable opRxClr := fun _ => rfl

/-- Which way `ENC.CAT i` ends is decided by `i` alone. -/
theorem repeatable_opEncCat (i : Byte) : Repeatable (opEncCat i) := by
  intro b
  unfold opEncCat
  cases catalogAt i <;> rfl

/-! ## `CVT.MEAS` -/

theorem opCvtMeas_of_valid {b : Block} (h : allWordsValid b = true) : opCvtMeas b =
    .done { b with co2 := b.w[0], temp := tempF32 b.w[1], rh := rhF32 b.w[2], mv := true } := if_pos h

theorem opCvtMeas_of_invalid {b : Block} (h : allWordsValid b = false) : opCvtMeas b = .raised .seq b :=
  if_neg (by simp [h])

/-- `CVT.MEAS` reads `W` and `WV` and writes neither. -/
theorem repeatable_opCvtMeas : Repeatable opCvtMeas := by
  intro b
  rcases opCvtMeas_cases b with ⟨hvalid, e⟩ | ⟨hinvalid, e⟩ <;> rw [e]
  · rw [opCvtMeas_of_valid]
    · rfl
    · exact hvalid
  · rw [opCvtMeas_of_invalid]
    · rfl
    · exact hinvalid

/-! ## `DEC.WORD` -/

section
variable {k : Byte} {b : Block}

theorem opDecWord_of_range (hk : 2 < k.toNat) : opDecWord k b = .raised .range b := if_pos hk

variable (hk : k.toNat ≤ 2)
include hk

theorem opDecWord_of_length (hl : b.rxlen.toNat < 3 * k.toNat + 3) : opDecWord k b = .raised .length b :=
  (if_neg hk.not_gt).trans (if_pos hl)

variable (hl : 3 * k.toNat + 3 ≤ b.rxlen.toNat)
include hl

theorem opDecWord_of_mismatch (hc : groupCrc b k.toNat ≠ groupReceived b k.toNat) : opDecWord k b =
    .raised .crcMismatch { startWord k.toNat b with crc := groupCrc b k.toNat } :=
  (if_neg hk.not_gt).trans ((if_neg hl.not_gt).trans (if_neg hc))

theorem opDecWord_of_match (hc : groupCrc b k.toNat = groupReceived b k.toNat) : opDecWord k b =
    .done (storeWord k.toNat (groupWord b k.toNat) { startWord k.toNat b with crc := groupCrc b k.toNat }) :=
  (if_neg hk.not_gt).trans ((if_neg hl.not_gt).trans (if_pos hc))

end

/-- `DEC.WORD` writes neither `RXB` nor `RXLEN`, so the second time it ends the same way, and writes the same again. -/
theorem repeatable_opDecWord (k : Byte) : Repeatable (opDecWord k) := by
  intro b
  rcases opDecWord_cases k b with ⟨hk, e⟩ | ⟨hk, hl, e⟩ | ⟨hk, hl, hc, e⟩ | ⟨hk, hl, hc, e⟩ <;> rw [e]
  · rw [opDecWord_of_range hk]; rfl
  · rw [opDecWord_of_length hk]
    · rfl
    · exact hl
  · rw [opDecWord_of_mismatch hk]
    · simp [startWord, raiseError, groupCrc, rxAt]
    · exact hl
    · exact hc
  · rw [opDecWord_of_match hk]
    · simp [storeWord, startWord, groupCrc, groupWord, rxAt]
    · exact hl
    · exact hc

/-! ## Scanning and storing groups: what they read of a block, and what they leave -/

section
variable {src src' : Block} (hrxb : src'.rxb = src.rxb)
include hrxb

theorem rxAt_congr (i : Nat) : rxAt src' i = rxAt src i := by rw [rxAt, hrxb, rxAt]

theorem groupCrc_congr (k : Nat) : groupCrc src' k = groupCrc src k := by
  simp only [groupCrc, rxAt_congr hrxb]

theorem groupReceived_congr (k : Nat) : groupReceived src' k = groupReceived src k := rxAt_congr hrxb _

theorem groupWord_congr (k : Nat) : groupWord src' k = groupWord src k := by
  simp only [groupWord, rxAt_congr hrxb]

theorem scanGroups_congr (n k : Nat) (c : Byte) : scanGroups src' n k c = scanGroups src n k c := by
  induction n generalizing k c with
  | zero => rfl
  | succ n ih => rw [scanGroups, groupCrc_congr hrxb, groupReceived_congr hrxb, ih, scanGroups]

theorem storeGroups_congr (n k : Nat) (b : Block) : storeGroups src' n k b = storeGroups src n k b := by
  induction n generalizing k b with
  | zero => rfl
  | succ n ih => rw [storeGroups, groupWord_congr hrxb, ih, storeGroups]

end

/-- A scan of at least one group depends on `RXB` alone, not on the checksum it begins with. -/
theorem scanGroups_eq_of_rxb {src src' : Block} (hrxb : src'.rxb = src.rxb) {n : Nat} (hn : n ≠ 0) (k : Nat)
    (c c' : Byte) : scanGroups src' n k c' = scanGroups src n k c := by
  obtain ⟨m, rfl⟩ := Nat.exists_eq_succ_of_ne_zero hn
  exact scanGroups_congr hrxb (m + 1) k c'

/-- Storing the words of groups `k` to `k + n - 1` writes those entries and sets their valid bits. -/
theorem getElem_storeGroups (src : Block) (n k : Nat) (b : Block) (i : Nat) (hi : i < 3) :
    (storeGroups src n k b).w[i] = (if k ≤ i ∧ i < k + n then groupWord src i else b.w[i]) ∧
      (storeGroups src n k b).wv[i] = if k ≤ i ∧ i < k + n then true else b.wv[i] := by
  induction n generalizing k b with
  | zero => exact ⟨(if_neg (by omega)).symm, (if_neg (by omega)).symm⟩
  | succ n ih =>
    obtain ⟨hw, hwv⟩ := ih (k + 1) (storeWord k (groupWord src k) b)
    rw [storeGroups, hw, hwv]
    by_cases hki : k = i
    · subst hki; simp [storeWord]
    · have hiff : (k + 1 ≤ i ∧ i < k + 1 + n) ↔ (k ≤ i ∧ i < k + (n + 1)) := by omega
      simp only [hiff]
      simp [storeWord, hki]

/-- Storing the words of the same groups again, the valid bits as they were before, leaves the words as they are. -/
theorem storeGroups_again {src b b' : Block} {n k : Nat} (hw : b'.w = (storeGroups src n k b).w) (hwv : b'.wv = b.wv) :
    storeGroups src n k b' = { b' with wv := (storeGroups src n k b).wv } := by
  have hw' : (storeGroups src n k b').w = b'.w := by
    ext i hi : 1
    simp only [hw, (getElem_storeGroups _ _ _ _ i hi).1]
    split <;> rfl
  have hwv' : (storeGroups src n k b').wv = (storeGroups src n k b).wv := by
    ext i hi
    simp only [(getElem_storeGroups _ _ _ _ i hi).2, hwv]
  rw [storeGroups_frame, hw', hwv']

/-! ## `DEC.ALL` -/

section
variable {n : Byte} {b : Block}

theorem opDecAll_of_range (hn : n ≠ 1#8 ∧ n ≠ 3#8) : opDecAll n b = .raised .range b := if_pos hn

variable (hn : n = 1#8 ∨ n = 3#8)
include hn

theorem opDecAll_of_length (hl : b.rxlen.toNat ≠ 3 * n.toNat) : opDecAll n b = .raised .length b :=
  (if_neg (by tauto)).trans (if_pos hl)

variable (hl : b.rxlen.toNat = 3 * n.toNat) {c : Byte}
include hl

theorem opDecAll_of_mismatch (hs : scanGroups b n.toNat 0 b.crc = (c, false)) :
    opDecAll n b = .raised .crcMismatch { startAll b with crc := c } := by
  have hrange : ¬ (n ≠ 1#8 ∧ n ≠ 3#8) := by tauto
  simp [opDecAll, hrange, hl, hs]

theorem opDecAll_of_match (hs : scanGroups b n.toNat 0 b.crc = (c, true)) :
    opDecAll n b = .done (storeGroups b n.toNat 0 { startAll b with crc := c }) := by
  have hrange : ¬ (n ≠ 1#8 ∧ n ≠ 3#8) := by tauto
  simp [opDecAll, hrange, hl, hs]

end

/-- `DEC.ALL` writes neither `RXB` nor `RXLEN`, so the second time it ends the same way, and writes the same again. -/
theorem repeatable_opDecAll (n : Byte) : Repeatable (opDecAll n) := by
  intro b
  rcases opDecAll_cases n b with ⟨hn, e⟩ | ⟨hn, hl, e⟩ | ⟨hn, hl, hs, e⟩ | ⟨hn, hl, hs, e⟩ <;> rw [e]
  case inl => rw [opDecAll_of_range hn]; rfl
  case inr.inl =>
    rw [opDecAll_of_length hn]
    · rfl
    · exact hl
  all_goals
    have hpos : n.toNat ≠ 0 := by rcases hn with rfl | rfl <;> decide
    generalize hscan : scanGroups b n.toNat 0 b.crc = scan at hs ⊢
    obtain ⟨c, ok⟩ := scan
    subst hs
    have hagain (b' : Block) (hrxb : b'.rxb = b.rxb) : scanGroups b' n.toNat 0 b'.crc = _ :=
      (scanGroups_eq_of_rxb hrxb hpos 0 b.crc _).trans hscan
  case inr.inr.inl =>
    rw [opDecAll_of_mismatch hn (c := c)]
    · rfl
    · exact hl
    · exact hagain _ rfl
  case inr.inr.inr =>
    rw [storeGroups_frame, opDecAll_of_match hn (c := c)]
    · rw [storeGroups_congr (src := b), storeGroups_again (b := { startAll b with crc := c })] <;> rfl
    · exact hl
    · exact hagain _ rfl

/-! ## The obligation -/

/-- Settles O40: the ten operations are repeatable, and the other three are the ones left out. -/
theorem repeatedOperationsGiveTheSameState : Obligations.RepeatedOperationsGiveTheSameState := by
  intro i s t hop hcrcByte hrxByte hencArg h
  cases i <;> cases hop
  all_goals
    injection h with h
    subst h
  case nop => exact repeatable_opNop.next_operate s
  case clr => exact repeatable_opClr.next_operate s
  case crcInit => exact repeatable_opCrcInit.next_operate s
  case crcByte v => exact absurd rfl (hcrcByte v)
  case crcWord v => exact (repeatable_opCrcWord v).next_operate s
  case encCmd v => exact (repeatable_opEncCmd v).next_operate s
  case encArg v => exact absurd rfl (hencArg v)
  case encCat k => exact (repeatable_opEncCat k).next_operate s
  case rxClr => exact repeatable_opRxClr.next_operate s
  case rxByte v => exact absurd rfl (hrxByte v)
  case decWord k => exact (repeatable_opDecWord k).next_operate s
  case decAll n => exact (repeatable_opDecAll n).next_operate s
  case cvtMeas => exact repeatable_opCvtMeas.next_operate s

end Sys2Proof.Machine

/-! PROOFS. The encodings: operation words row by row of the operation map, command frames row by row of the catalog
(spec/30_encoding.md). -/

namespace Sys2Proof

open Machine

/-! ## An operation word as its three fields (R60, R63) -/

/-- An operation word is its three fields. -/
theorem opWord_fields (v : Word32) : opWord (opcOf v) (indexOperand v) (wordOperand v) = v := by
  apply BitVec.eq_of_getLsbD_eq
  intro k hk
  interval_cases k <;> simp [opWord, opcOf, indexOperand, wordOperand]

theorem word_eq_iff_fields (v v' : Word32) :
    v = v' ↔ opcOf v = opcOf v' ∧ indexOperand v = indexOperand v' ∧ wordOperand v = wordOperand v' := by
  refine ⟨fun h => by simp [h], fun ⟨hopc, ha, himm⟩ => ?_⟩
  rw [← opWord_fields v, hopc, ha, himm, opWord_fields]

@[simp] theorem opcOf_and (v m : Word32) : opcOf (v &&& m) = opcOf v &&& opcOf m := BitVec.extractLsb'_and

@[simp] theorem indexOperand_and (v m : Word32) : indexOperand (v &&& m) = indexOperand v &&& indexOperand m :=
  BitVec.extractLsb'_and

@[simp] theorem wordOperand_and (v m : Word32) : wordOperand (v &&& m) = wordOperand v &&& wordOperand m :=
  BitVec.extractLsb'_and

theorem and_allOnes_byte (a : Byte) : a &&& 0xFF#8 = a := BitVec.and_allOnes

theorem and_allOnes_word (imm : Word) : imm &&& 0xFFFF#16 = imm := BitVec.and_allOnes

/-- The fields `A` and `IMM` are zero where the row's mask says they must be (R62). -/
def OpRow.ZeroFields (r : OpRow) (a : Byte) (imm : Word) : Prop :=
  a &&& indexOperand r.mask = 0#8 ∧ imm &&& wordOperand r.mask = 0#16

theorem OpRow.zeroFields_zero (r : OpRow) : r.ZeroFields 0#8 0#16 := ⟨BitVec.zero_and, BitVec.zero_and⟩

/-- Every row fixes the whole of `OPC`, and every other bit it fixes to zero. -/
theorem opRows_fields : ∀ r ∈ opRows, opcOf r.mask = 0xFF#8 ∧ r.pattern = opWord r.opc 0#8 0#16 := by
  simp only [opRows, List.forall_mem_cons]
  decide

/-- R63: a word is one of a row exactly where it has the row's `OPC` and its must-be-zero fields are zero. -/
theorem opRow_matches_iff {r : OpRow} (hr : r ∈ opRows) (v : Word32) :
    v &&& r.mask = r.pattern ↔ opcOf v = r.opc ∧ r.ZeroFields (indexOperand v) (wordOperand v) := by
  obtain ⟨hmask, hpattern⟩ := opRows_fields r hr
  rw [word_eq_iff_fields, hpattern]
  simp [hmask, and_allOnes_byte, OpRow.ZeroFields]

/-- No two rows have one `OPC`. -/
theorem opRows_find : ∀ r ∈ opRows, opRows.find? (fun r' => r'.opc == r.opc) = some r := by
  simp [opRows]

/-- R63: a word decodes exactly by the row it matches. -/
theorem decodeWord_eq_ok_iff (v : Word32) (i : Instr) : decodeWord v = .ok i ↔
    ∃ r ∈ opRows, v &&& r.mask = r.pattern ∧ r.build (indexOperand v) (wordOperand v) = i := by
  unfold decodeWord
  constructor
  · intro h
    split at h
    · cases h
    next r hfind =>
      split at h
      next hmatch =>
        injection h with h
        exact ⟨r, List.mem_of_find?_eq_some hfind, hmatch, h⟩
      · cases h
  · rintro ⟨r, hr, hmatch, rfl⟩
    simp only [((opRow_matches_iff hr v).mp hmatch).1, opRows_find r hr, if_pos hmatch]

/-- A word built from a row's `OPC` and operands, zero elsewhere, decodes to the row's instruction. -/
theorem decodeWord_opWord {r : OpRow} {a : Byte} {imm : Word} (hr : r ∈ opRows) (hzero : r.ZeroFields a imm) :
    decodeWord (opWord r.opc a imm) = .ok (r.build a imm) := by
  rw [decodeWord_eq_ok_iff]
  refine ⟨r, hr, (opRow_matches_iff hr _).mpr ?_, ?_⟩ <;> simp [hzero]

/-! ## The operations by row (R64) -/

/-- An `IMM` that is zero where the mask of the byte operations fixes it is its byte operand. -/
theorem setWidth_byteOperand {imm : Word} (h : imm &&& wordOperand 0xFFFFFF00#32 = 0#16) :
    (byteOperand imm).setWidth 16 = imm := by
  apply BitVec.eq_of_getLsbD_eq
  intro k hk
  have hbit : (imm &&& 0xFF00#16).getLsbD k = (0#16).getLsbD k := congrArg (·.getLsbD k) h
  clear h
  interval_cases k <;> simp_all [byteOperand]

theorem setWidth_and_byteMask (b : Byte) : b.setWidth 16 &&& wordOperand 0xFFFFFF00#32 = 0#16 := by
  revert b; decide

/-- The encoder puts the operands of a row's instruction back into the fields they were read from. -/
theorem encode_build : ∀ r ∈ opRows, ∀ (a : Byte) (imm : Word), r.ZeroFields a imm →
    encode (r.build a imm) = .opw (opWord r.opc a imm) := by
  simp only [opRows, List.forall_mem_cons]
  refine ⟨?nop, ?clr, ?crcInit, ?crcByte, ?crcWord, ?encCmd, ?encArg, ?encCat, ?rxClr, ?rxByte, ?decWord, ?decAll,
    ?cvtMeas, by simp⟩ <;> rintro a imm ⟨ha, himm⟩
  case crcByte | rxByte =>
    obtain rfl := (and_allOnes_byte a).symm.trans ha
    simp only [encode, setWidth_byteOperand himm]
  case crcWord | encCmd | encArg => obtain rfl := (and_allOnes_byte a).symm.trans ha; rfl
  case encCat | decWord | decAll => obtain rfl := (and_allOnes_word imm).symm.trans himm; rfl
  all_goals
    obtain rfl := (and_allOnes_byte a).symm.trans ha
    obtain rfl := (and_allOnes_word imm).symm.trans himm
    rfl

/-! ## The catalog commands by row (R66, R67, R70, R105) -/

/-- Length and opcode of a row's frame select the row. -/
theorem commandOf_catalogRow (c : WireCmd) : commandOf (catalogRow c).opcode (catalogRow c).hasArg = some c := by
  cases c <;> rfl

/-- R70: the pair (length, opcode) selects a command exactly where it is the pair of the command's row. -/
theorem commandOf_eq_some_iff (opcode : Word) (hasArg : Bool) (c : WireCmd) :
    commandOf opcode hasArg = some c ↔ (catalogRow c).opcode = opcode ∧ (catalogRow c).hasArg = hasArg := by
  constructor
  · intro h
    simpa using List.find?_some h
  · rintro ⟨rfl, rfl⟩
    exact commandOf_catalogRow c

theorem commandOf_eq_none_iff (opcode : Word) (hasArg : Bool) :
    commandOf opcode hasArg = none ↔ ∀ c, (catalogRow c).opcode = opcode → (catalogRow c).hasArg ≠ hasArg := by
  simp [Option.eq_none_iff_forall_ne_some, commandOf_eq_some_iff]

/-- The frame of a command's row: 5 bytes with an argument, else 2. -/
theorem encode_wireInstr (c : WireCmd) (arg : Word) (crc : Byte) :
    encode (wireInstr c arg crc) = if (catalogRow c).hasArg then frame5 c arg crc else frame2 c := by
  cases c <;> rfl

/-- A command without argument carries none. -/
theorem wireInstr_of_not_hasArg {c : WireCmd} (h : (catalogRow c).hasArg = false) (arg arg' : Word) (crc crc' : Byte) :
    wireInstr c arg crc = wireInstr c arg' crc' := by
  cases c <;> cases h <;> rfl

theorem decode_frame2 {c : WireCmd} (h : (catalogRow c).hasArg = false) :
    decode (frame2 c) = .ok (wireInstr c 0#16 0#8) := by
  have hc : commandOf (catalogRow c).opcode false = some c := (commandOf_eq_some_iff _ _ _).mpr ⟨rfl, h⟩
  simp [decode, frame2, be16, decodeFrame, hc]

theorem decode_frame5 {c : WireCmd} (h : (catalogRow c).hasArg = true) (arg : Word) (crc : Byte) :
    decode (frame5 c arg crc) = .ok (wireInstr c arg crc) := by
  have hc : commandOf (catalogRow c).opcode true = some c := (commandOf_eq_some_iff _ _ _).mpr ⟨rfl, h⟩
  simp [decode, frame5, be16, decodeFrame, hc]

theorem decode_encode_wireInstr (c : WireCmd) (arg : Word) (crc : Byte) :
    decode (encode (wireInstr c arg crc)) = .ok (wireInstr c arg crc) := by
  rw [encode_wireInstr]
  cases h : (catalogRow c).hasArg
  · exact (decode_frame2 h).trans (congrArg _ (wireInstr_of_not_hasArg h _ _ _ _))
  · exact decode_frame5 h arg crc

theorem be16_joinBytes (m l : Byte) : be16 (joinBytes m l) = [m, l] := by simp [be16]

/-- The frame of the command an opcode and a length select has that opcode and that length. -/
theorem encode_of_commandOf {opcode : Word} {hasArg : Bool} {c : WireCmd} (h : commandOf opcode hasArg = some c)
    (arg : Word) (crc : Byte) : encode (wireInstr c arg crc) =
      .frame (be16 opcode ++ if hasArg then be16 arg ++ [crc] else []) := by
  obtain ⟨rfl, rfl⟩ := (commandOf_eq_some_iff _ _ _).mp h
  rw [encode_wireInstr]
  split <;> simp [frame2, frame5]

/-- A frame that decodes is the frame of the command it decodes to. -/
theorem encode_of_decodeFrame {bytes : List Byte} {i : Instr} (h : decodeFrame bytes = .ok i) :
    encode i = .frame bytes := by
  unfold decodeFrame at h
  split at h
  case h_1 o1 o0 =>
    split at h
    · cases h
    next c hc =>
      injection h with h
      rw [← h, encode_of_commandOf hc]
      simp [be16_joinBytes]
  case h_2 o1 o0 a1 a0 crc =>
    split at h
    · cases h
    next c hc =>
      injection h with h
      rw [← h, encode_of_commandOf hc]
      simp [be16_joinBytes]
  case h_3 => cases h

/-! ## The round trips -/

/-- The row's instruction at these operands encodes to a word that decodes to it. -/
theorem decode_encode_build {r : OpRow} (hr : r ∈ opRows) {a : Byte} {imm : Word} (hzero : r.ZeroFields a imm) :
    decode (encode (r.build a imm)) = .ok (r.build a imm) := by
  rw [encode_build r hr a imm hzero]
  exact decodeWord_opWord hr hzero

/-- Every instruction that is no wire command is some row's, its must-be-zero fields zero. -/
theorem exists_opRow_of_wireOf_eq_none {i : Instr} (h : wireOf i = none) :
    ∃ r ∈ opRows, ∃ a imm, r.ZeroFields a imm ∧ r.build a imm = i := by
  cases i <;> cases h
  case nop => exact ⟨opRows[0], by simp, 0#8, 0#16, OpRow.zeroFields_zero _, rfl⟩
  case clr => exact ⟨opRows[1], by simp, 0#8, 0#16, OpRow.zeroFields_zero _, rfl⟩
  case crcInit => exact ⟨opRows[2], by simp, 0#8, 0#16, OpRow.zeroFields_zero _, rfl⟩
  case crcByte b =>
    exact ⟨opRows[3], by simp, 0#8, b.setWidth 16, ⟨BitVec.zero_and, setWidth_and_byteMask b⟩,
      congrArg Instr.crcByte (byteOperand_setWidth b)⟩
  case crcWord w => exact ⟨opRows[4], by simp, 0#8, w, ⟨BitVec.zero_and, BitVec.and_zero⟩, rfl⟩
  case encCmd v => exact ⟨opRows[5], by simp, 0#8, v, ⟨BitVec.zero_and, BitVec.and_zero⟩, rfl⟩
  case encArg v => exact ⟨opRows[6], by simp, 0#8, v, ⟨BitVec.zero_and, BitVec.and_zero⟩, rfl⟩
  case encCat k => exact ⟨opRows[7], by simp, k, 0#16, ⟨BitVec.and_zero, BitVec.zero_and⟩, rfl⟩
  case rxClr => exact ⟨opRows[8], by simp, 0#8, 0#16, OpRow.zeroFields_zero _, rfl⟩
  case rxByte b =>
    exact ⟨opRows[9], by simp, 0#8, b.setWidth 16, ⟨BitVec.zero_and, setWidth_and_byteMask b⟩,
      congrArg Instr.rxByte (byteOperand_setWidth b)⟩
  case decWord k => exact ⟨opRows[10], by simp, k, 0#16, ⟨BitVec.and_zero, BitVec.zero_and⟩, rfl⟩
  case decAll n => exact ⟨opRows[11], by simp, n, 0#16, ⟨BitVec.and_zero, BitVec.zero_and⟩, rfl⟩
  case cvtMeas => exact ⟨opRows[12], by simp, 0#8, 0#16, OpRow.zeroFields_zero _, rfl⟩

theorem exists_wireInstr_of_wireOf_eq_some {i : Instr} {c : WireCmd} (h : wireOf i = some c) :
    ∃ arg crc, wireInstr c arg crc = i := by
  cases i <;> cases h
  case setSensorAltitude arg crc | setAmbientPressure arg crc | setAscEnabled arg crc | setAscTarget arg crc =>
    exact ⟨arg, crc, rfl⟩
  all_goals exact ⟨0#16, 0#8, rfl⟩

/-- Settles O7: an operation is its row's at the fields it is encoded to, a wire command its catalog row's. -/
theorem decodeOfEncodeIsTheInstruction : Obligations.DecodeOfEncodeIsTheInstruction := by
  intro i
  cases h : wireOf i with
  | none =>
    obtain ⟨r, hr, a, imm, hzero, rfl⟩ := exists_opRow_of_wireOf_eq_none h
    exact decode_encode_build hr hzero
  | some c =>
    obtain ⟨arg, crc, rfl⟩ := exists_wireInstr_of_wireOf_eq_some h
    exact decode_encode_wireInstr c arg crc

/-- Settles O8: the row a word matches gives the fields back, and the frame of a command is read from its catalog row. -/
theorem encodeOfDecodeIsTheEncoding : Obligations.EncodeOfDecodeIsTheEncoding := by
  intro e i h
  cases e with
  | opw v =>
    obtain ⟨r, hr, hmatch, rfl⟩ := (decodeWord_eq_ok_iff v i).mp h
    obtain ⟨hopc, hzero⟩ := (opRow_matches_iff hr v).mp hmatch
    rw [encode_build r hr _ _ hzero, ← hopc, opWord_fields]
  | frame bytes => exact encode_of_decodeFrame h

/-- Settles O9: each of the eight is the encoding of its instruction. -/
theorem sampleEncodingsDecode : Obligations.SampleEncodingsDecode :=
  have h := decodeOfEncodeIsTheInstruction
  ⟨h .nop, h (.crcByte 0xBE#8), h (.encArg 0x079E#16), h (.encCat 11#8), h (.decAll 3#8), h .cvtMeas,
    h .readMeasurement, h (.setSensorAltitude 0x079E#16 0x09#8)⟩

/-! ## Frames by length and opcode (R70, R72) -/

/-- An opcode with a row of each length is `0xE000`. -/
theorem opcode_of_both_lengths {c d : WireCmd} (h : (catalogRow c).opcode = (catalogRow d).opcode)
    (hc : (catalogRow c).hasArg = true) (hd : (catalogRow d).hasArg = false) : (catalogRow c).opcode = 0xE000#16 := by
  have hshared : commandOf (catalogRow c).opcode false = some d := (commandOf_eq_some_iff _ _ _).mpr ⟨h.symm, hd⟩
  cases c <;> cases hc
  case setAmbientPressure => rfl
  all_goals cases hshared

/-- Two commands with one opcode are one, or the set and the get of the ambient pressure. -/
theorem eq_or_opcode_of_opcode_eq {c d : WireCmd} (h : (catalogRow c).opcode = (catalogRow d).opcode) :
    c = d ∨ (catalogRow c).opcode = 0xE000#16 := by
  cases hc : (catalogRow c).hasArg <;> cases hd : (catalogRow d).hasArg
  case false.true => exact .inr (h.trans (opcode_of_both_lengths h.symm hd hc))
  case true.false => exact .inr (opcode_of_both_lengths h hc hd)
  all_goals
    have hcd := commandOf_catalogRow c
    rw [h, hc, ← hd, commandOf_catalogRow] at hcd
    exact .inl (Option.some.inj hcd).symm

theorem decodeFrame_of_length {bytes : List Byte} (h2 : bytes.length ≠ 2) (h5 : bytes.length ≠ 5) :
    decodeFrame bytes = .error (.frameLength bytes.length) := by
  unfold decodeFrame
  split
  · exact absurd rfl h2
  · exact absurd rfl h5
  · rfl

/-- A frame of 2 or 5 bytes whose opcode no row of its length has. -/
theorem decodeFrame_of_unknown {o1 o0 : Byte} {more : List Byte} (hlen : more.length = 0 ∨ more.length = 3)
    (hno : commandOf (joinBytes o1 o0) (decide (more.length = 3)) = none) :
    decodeFrame (o1 :: o0 :: more) = .error (.unknownOpcode (joinBytes o1 o0)) := by
  match more, hlen with
  | [], _ => simp_all [decodeFrame]
  | [a1, a0, crc], _ => simp_all [decodeFrame]

theorem perform_command_error {bytes : List Byte} {s : State} {e : DecodeError} (h : decodeFrame bytes = .error e) :
    perform (.command bytes) s = .refused (.notACommandFrame e) := by
  simp only [perform, performFrame, h]

/-- Settles O11: the two frames are encodings, and the step performs the frame, which the decoder turns away. -/
theorem framesDecodeByLengthAndOpcode : Obligations.FramesDecodeByLengthAndOpcode := by
  refine ⟨fun arg crc => decodeOfEncodeIsTheInstruction (.setAmbientPressure arg crc),
    decodeOfEncodeIsTheInstruction .getAmbientPressure, fun _ _ => eq_or_opcode_of_opcode_eq,
    fun s rest bytes hdue hfree hpending => ?_⟩
  rw [step_of_pending hdue hfree hpending]
  refine ⟨fun h2 h5 => perform_command_error (decodeFrame_of_length h2 h5), ?_⟩
  rintro o1 o0 more rfl hlen hno
  exact perform_command_error (decodeFrame_of_unknown hlen ((commandOf_eq_none_iff _ _).mpr hno))

end Sys2Proof

/-! PROOFS. The pseudo-operations (spec/30_encoding.md R74). -/

namespace Sys2Proof.Machine

theorem execAll_append {p q : List Instr} {s t : State} (h : execAll p s = .next t) :
    execAll (p ++ q) s = execAll q t := by
  induction p generalizing s with
  | nil =>
    injection h with h
    rw [← h, List.nil_append]
  | cons i rest ih =>
    simp only [List.cons_append, execAll] at h ⊢
    cases hi : exec i s with
    | next s' =>
      rw [hi] at h
      exact ih h
    | fault r | refused r =>
      rw [hi] at h
      cases h

/-! ## `CRC.SPAN` -/

/-- The state but for `CRC`, which holds `c`, and `ERR`, which is `OK`. -/
def withCrc (c : Byte) (s : State) : State := { s with block := { s.block with crc := c, err := 0#3 } }

theorem exec_crcByte_withCrc (v c : Byte) (s : State) :
    exec (.crcByte v) (withCrc c s) = .next (withCrc (crc8Update c v) s) := rfl

/-- `CRC.BYTE` of each byte folds the checksum over them. -/
theorem execAll_crcBytes (bytes : List Byte) (c : Byte) (s : State) :
    execAll (bytes.map .crcByte) (withCrc c s) = .next (withCrc (bytes.foldl crc8Update c) s) := by
  induction bytes generalizing c with
  | nil => rfl
  | cons v rest ih =>
    rw [List.map_cons, execAll, exec_crcByte_withCrc]
    exact ih (crc8Update c v)

/-- Settles O41: `CRC.INIT` starts the fold that is `crc8`. -/
theorem crcSpanComputesCrc8 : Obligations.CrcSpanComputesCrc8 :=
  fun bytes s => execAll_crcBytes bytes crcStart s

/-! ## `SENDA` -/

/-- `ENC.CAT` of a command's index leaves the 2-byte frame to which `ENC.ARG` appends. -/
theorem execAll_sendA (c : WireCmd) (v : Word) (s : State) : execAll (sendA c v) s = .next { s with block :=
    { putArgument v (crcOfWord v) (putCommand (catalogRow c).opcode (publishRow (catalogRow c) s.block)) with
      crc := crcOfWord v
      err := 0#3 } } := by
  simp only [sendA, execAll, exec, execEncCat, operate, opEncCat_index]
  rfl

/-- Settles O43: the appended frame is read off the block that `execAll_sendA` gives. -/
theorem sendABuildsTheFiveByteFrame : Obligations.SendABuildsTheFiveByteFrame :=
  fun c v s => ⟨_, execAll_sendA c v s, rfl, rfl, rfl⟩

/-! ## `RX.LOAD` -/

/-- The response buffer with these bytes in order, the rest zero. -/
def rxBuffer (bytes : List Byte) : Vector Byte 9 := Vector.ofFn fun i => bytes.getD i.val 0#8

/-- The state but for the response buffer, which holds these bytes, and `ERR`, which is `OK`. -/
def withResponse (bytes : List Byte) (s : State) : State :=
  { s with block := { s.block with rxb := rxBuffer bytes, rxlen := BitVec.ofNat 4 bytes.length, err := 0#3 } }

theorem rxBuffer_concat (pre : List Byte) (v : Byte) :
    rxBuffer (pre ++ [v]) = (rxBuffer pre).setIfInBounds pre.length v := by
  ext i hi : 1
  simp only [rxBuffer, Vector.getElem_ofFn, Vector.getElem_setIfInBounds]
  rcases Nat.lt_trichotomy i pre.length with hlt | rfl | hgt
  · simp [hlt, hlt.ne', List.getElem?_append_left]
  · simp
  · simp [hgt.ne, List.getElem?_append_right, hgt.le, Nat.sub_ne_zero_of_lt hgt]

theorem exec_rxClr (s : State) : exec .rxClr s = .next (withResponse [] s) := rfl

/-- `RX.BYTE` appends to a buffer that is not full. -/
theorem exec_rxByte_withResponse {pre : List Byte} (hroom : pre.length < 9) (v : Byte) (s : State) :
    exec (.rxByte v) (withResponse pre s) = .next (withResponse (pre ++ [v]) s) := by
  have hlen : (withResponse pre s).block.rxlen.toNat = pre.length := by simp [withResponse]; omega
  have hpush : opRxByte v (withResponse pre s).block = .done (pushByte v (withResponse pre s).block) :=
    if_neg (by omega)
  have hnext : BitVec.ofNat 4 pre.length + 1#4 = BitVec.ofNat 4 (pre ++ [v]).length := by
    simp [BitVec.ofNat_add]
  simp only [exec, execRxByte, operate, hpush, finish_done, pushByte, hlen]
  simp only [withResponse, rxBuffer_concat, hnext]

theorem execAll_rxBytes (bytes : List Byte) : ∀ (pre : List Byte) (s : State), pre.length + bytes.length ≤ 9 →
    execAll (bytes.map .rxByte) (withResponse pre s) = .next (withResponse (pre ++ bytes) s) := by
  induction bytes with
  | nil => simp [execAll]
  | cons v rest ih =>
    intro pre s hlen
    rw [List.length_cons] at hlen
    rw [List.map_cons, execAll, exec_rxByte_withResponse (by omega)]
    simpa using ih (pre ++ [v]) s (by simp; omega)

theorem execAll_rxLoad {bytes : List Byte} (hlen : bytes.length ≤ 9) (s : State) :
    execAll (rxLoad bytes) s = .next (withResponse bytes s) := by
  rw [rxLoad, execAll, exec_rxClr]
  exact execAll_rxBytes bytes [] s (by simpa using hlen)

theorem getElem_rxBuffer (bytes : List Byte) (i : Fin 9) : (rxBuffer bytes)[i] = bytes.getD i.val 0#8 := by
  simp [rxBuffer]

/-! ## `DEC.ALL` of three groups, and `READ.MEAS` -/

section
variable {b : Block} (hlen : b.rxlen = 9#4)
include hlen

/-- The last checksum computed is that of group 2 (R115). -/
theorem opDecAll_three_of_match (hmatch : ∀ k < 3, groupCrc b k = groupReceived b k) : opDecAll 3#8 b =
    .done { b with
      mv := false, crc := groupCrc b 2, w := #v[groupWord b 0, groupWord b 1, groupWord b 2]
      wv := #v[true, true, true] } := by
  have hscan : scanGroups b 3 0 b.crc = (groupCrc b 2, true) := by
    simp [scanGroups, hmatch]
  rw [opDecAll_of_match (.inr rfl) (by simp [hlen]) hscan]
  simp [storeGroups, storeWord, startAll, vector3_set0, vector3_set1, vector3_set2]

/-- Which checksum stands in `CRC` depends on the first group that does not match. -/
theorem opDecAll_three_of_mismatch {k : Nat} (hk : k < 3) (hne : groupCrc b k ≠ groupReceived b k) :
    ∃ c, opDecAll 3#8 b = .raised .crcMismatch { startAll b with crc := c } := by
  have hscan : (scanGroups b 3 0 b.crc).2 = false := by
    rw [← Bool.not_eq_true, scanGroups_ok]
    exact fun hall => hne (hall k (Nat.zero_le k) (by omega))
  exact ⟨_, opDecAll_of_mismatch (.inr rfl) (by simp [hlen]) (Prod.ext rfl hscan)⟩

end

theorem execAll_readMeas {bytes : List Byte} (hlen : bytes.length ≤ 9) (s : State) : execAll (readMeas bytes) s =
    .next (operate opCvtMeas (operate (opDecAll 3#8) (withResponse bytes s))) :=
  execAll_append (execAll_rxLoad hlen s)

section
variable (bytes : List Byte) (s : State)

theorem rxAt_withResponse {i : Nat} (hi : i < 9) : rxAt (withResponse bytes s).block i = bytes.getD i 0#8 := by
  simp [rxAt, withResponse, rxBuffer, hi]

variable {k : Nat} (hk : k < 3)
include hk

theorem groupCrc_withResponse : groupCrc (withResponse bytes s).block k =
    crc8 [bytes.getD (3 * k) 0#8, bytes.getD (3 * k + 1) 0#8] := by
  rw [groupCrc, rxAt_withResponse _ _ (by omega), rxAt_withResponse _ _ (by omega)]

theorem groupReceived_withResponse : groupReceived (withResponse bytes s).block k = bytes.getD (3 * k + 2) 0#8 :=
  rxAt_withResponse _ _ (by omega)

theorem groupWord_withResponse : groupWord (withResponse bytes s).block k = responseWord bytes k := by
  rw [groupWord, rxAt_withResponse _ _ (by omega), rxAt_withResponse _ _ (by omega), responseWord]

end

/-- A response whose three groups match is decoded and converted. -/
theorem execAll_readMeas_of_match {bytes : List Byte} (hlen : bytes.length = 9) (hmatch : ∀ k < 3, groupMatches bytes k)
    (s : State) : execAll (readMeas bytes) s = .next { s with block := { s.block with
      rxb := rxBuffer bytes, rxlen := 9#4, crc := bytes.getD 8 0#8
      w := #v[responseWord bytes 0, responseWord bytes 1, responseWord bytes 2], wv := #v[true, true, true]
      co2 := responseWord bytes 0, temp := tempF32 (responseWord bytes 1), rh := rhF32 (responseWord bytes 2), mv := true
      err := 0#3 } } := by
  have hgroups (k : Nat) (hk : k < 3) :
      groupCrc (withResponse bytes s).block k = groupReceived (withResponse bytes s).block k := by
    rw [groupCrc_withResponse _ _ hk, groupReceived_withResponse _ _ hk]
    exact hmatch k hk
  have hrxlen : (withResponse bytes s).block.rxlen = 9#4 := by simp [withResponse, hlen]
  have hcrc : groupCrc (withResponse bytes s).block 2 = bytes.getD 8 0#8 :=
    (hgroups 2 (by omega)).trans (groupReceived_withResponse _ _ (by omega))
  rw [execAll_readMeas hlen.le, operate, operate_block, operate_host, opDecAll_three_of_match hrxlen hgroups,
    opCvtMeas_of_valid rfl]
  simp (disch := decide) only [finish_done, hcrc, groupWord_withResponse]
  simp [withResponse, hlen]

/-- A response of which some group does not match leaves no word valid, so `CVT.MEAS` raises `SEQ`. -/
theorem execAll_readMeas_of_mismatch {bytes : List Byte} (hlen : bytes.length = 9) {k : Nat} (hk : k < 3)
    (hne : ¬ groupMatches bytes k) (s : State) : ∃ c, execAll (readMeas bytes) s =
      .next { s with block := raiseError .seq { startAll (withResponse bytes s).block with crc := c } } := by
  have hgroup : groupCrc (withResponse bytes s).block k ≠ groupReceived (withResponse bytes s).block k := by
    rw [groupCrc_withResponse _ _ hk, groupReceived_withResponse _ _ hk]
    exact hne
  obtain ⟨c, hdec⟩ := opDecAll_three_of_mismatch (by simp [withResponse, hlen]) hk hgroup
  refine ⟨c, ?_⟩
  rw [execAll_readMeas hlen.le, operate, operate_block, hdec, opCvtMeas_of_invalid rfl]
  rfl

/-- Settles O42: loading fills the buffer, and decoding it finds every group to match, or some group not to. -/
theorem rxLoadAndReadMeasDecodeAMeasurement : Obligations.RxLoadAndReadMeasDecodeAMeasurement := by
  refine ⟨fun bytes s hlen => ?_, fun s m0 l0 c0 m1 l1 c1 m2 l2 c2 h0 h1 h2 => ?_, fun s bytes k hlen hk hne => ?_⟩
  · refine ⟨_, execAll_rxLoad hlen s, ?_, getElem_rxBuffer bytes, rfl⟩
    simp [withResponse]
    omega
  · refine (execAll_readMeas_of_match rfl ?_ s).trans rfl
    intro k hk
    interval_cases k
    · exact h0
    · exact h1
    · exact h2
  · obtain ⟨c, h⟩ := execAll_readMeas_of_mismatch hlen hk hne s
    exact ⟨_, h, rfl, rfl, rfl, rfl, rfl, rfl, rfl, rfl⟩

end Sys2Proof.Machine

/-! PROOFS. The CRC unit (spec/40_crc.md): the laws of its checksum, and its three operations with their encodings. -/

namespace Sys2Proof.Machine

/-! ## One shift and eight (R90) -/

theorem crcShift_eq_xor (r : Byte) : crcShift r = r <<< 1 ^^^ if r.getLsbD 7 then crcPoly else 0#8 := by
  unfold crcShift
  split <;> simp

/-- The polynomial is odd, so bit 0 after a shift is the bit shifted out. -/
theorem getLsbD_zero_crcShift (r : Byte) : (crcShift r).getLsbD 0 = r.getLsbD 7 := by
  rw [crcShift_eq_xor]
  cases r.getLsbD 7 <;> simp [crcPoly]

/-- A shift loses nothing: bit 0 tells the bit shifted out, and the other bits stand one place up. -/
theorem crcShift_injective : Function.Injective crcShift := by
  intro r r' h
  have htop : r.getLsbD 7 = r'.getLsbD 7 := by
    rw [← getLsbD_zero_crcShift r, h, getLsbD_zero_crcShift]
  have hrest : r <<< 1 = r' <<< 1 := by
    rw [crcShift_eq_xor, crcShift_eq_xor, htop] at h
    exact (BitVec.xor_left_inj _).mp h
  ext i hi
  rcases (by omega : i = 7 ∨ i + 1 < 8) with rfl | hlt
  · simpa using htop
  · simpa [hlt] using congrArg (·.getLsbD (i + 1)) hrest

theorem crcShifts_eq_iterate (n : Nat) (r : Byte) : crcShifts n r = crcShift^[n] r := by
  induction n generalizing r with
  | zero => rfl
  | succ n ih => exact ih (crcShift r)

theorem crcShifts_injective (n : Nat) : Function.Injective (crcShifts n) := by
  rw [funext (crcShifts_eq_iterate n)]
  exact crcShift_injective.iterate n

theorem crcShifts_bijective (n : Nat) : Function.Bijective (crcShifts n) :=
  Finite.injective_iff_bijective.mp (crcShifts_injective n)

theorem crcShifts_zero (n : Nat) : crcShifts n 0#8 = 0#8 := by
  rw [crcShifts_eq_iterate]
  exact Function.iterate_fixed rfl n

/-! ## The laws of the checksum (R91, R97) -/

theorem crc8Update_bijective_left (b : Byte) : Function.Bijective fun c => crc8Update c b :=
  have hxor : Function.Involutive fun c : Byte => c ^^^ b := fun c => by simp
  (crcShifts_bijective 8).comp hxor.bijective

theorem crc8Update_bijective_right (c : Byte) : Function.Bijective fun b => crc8Update c b :=
  have hxor : Function.Involutive fun b : Byte => c ^^^ b := fun b => by simp
  (crcShifts_bijective 8).comp hxor.bijective

/-- The register becomes zero exactly on the byte it holds. -/
theorem crc8Update_eq_zero_iff (c b : Byte) : crc8Update c b = 0#8 ↔ b = c := by
  rw [crc8Update, (crcShifts_injective 8).eq_iff' (crcShifts_zero 8), BitVec.xor_eq_zero_iff, eq_comm]

/-- Settles O20: shifts and exclusive-or are bijections, and the checksum's last byte enters by one update. -/
theorem crcIsBijectiveWithZeroResidue : Obligations.CrcIsBijectiveWithZeroResidue := by
  refine ⟨crc8Update_bijective_left, crc8Update_bijective_right, fun m l c => ?_, fun m v => ?_⟩
  · have hlast : crc8 [m, l, c] = crc8Update (crc8 [m, l]) c := crc8_concat [m, l] c
    rw [hlast, crc8Update_eq_zero_iff]
  · have hlast (l : Byte) : crc8 [m, l] = crc8Update (crc8 [m]) l := crc8_concat [m] l
    simp only [hlast]
    exact (crc8Update_bijective_right (crc8 [m])).existsUnique v

/-- Settles O17: `crc8` folds the update from the left, so the last byte enters last. -/
theorem crcOfASequenceIsAFold : Obligations.CrcOfASequenceIsAFold := ⟨crc8_nil, crc8_concat⟩

/-- The checksum of a group in its two steps from `0xFF`. -/
theorem crc8_pair_of_steps {m l c v : Byte} (hfirst : crc8Update 0xFF#8 m = c) (hsecond : crc8Update c l = v) :
    crc8 [m, l] = v := by
  subst hfirst
  exact hsecond

/-- Settles O18: each checksum in its two steps, its first step written out. -/
theorem crcVectorsOfTheSource : Obligations.CrcVectorsOfTheSource := by
  have hfirst : crc8Update 0xFF#8 0xBE#8 = 0x0C#8 := by decide
  have hsecond : crc8Update 0x0C#8 0xEF#8 = 0x92#8 := by decide
  refine ⟨hfirst, hsecond, crc8_pair_of_steps hfirst hsecond, ?_, ?_, ?_, ?_, ?_⟩
  · exact crc8_pair_of_steps (c := 0xB1#8) (by decide) (by decide)
  · exact crc8_pair_of_steps (c := 0x43#8) (by decide) (by decide)
  · exact crc8_pair_of_steps (c := 0x83#8) (by decide) (by decide)
  · exact crc8_pair_of_steps (c := 0x3B#8) (by decide) (by decide)
  · exact crc8_pair_of_steps (c := 0xFF#8) (by decide) (by decide)

theorem crcTable_length : crcTable.length = 256 := by
  simp only [crcTable, List.length_append, List.length_cons, List.length_nil]

/-- Entry `x` of the table is `x` shifted eight times: the 256 values of `T` are compared one by one. -/
theorem crcTable_entry : ∀ x : Byte, crcTable[x.toNat]? = some (crcShifts 8 x) := by decide

/-- Settles O19: the update shifts the exclusive-or eight times. -/
theorem crcUpdateIsATableLookup : Obligations.CrcUpdateIsATableLookup :=
  ⟨crcTable_length, fun c b => crcTable_entry (c ^^^ b)⟩

/-! ## Words with a row's `OPC` that are not of the row (R62, R63, R138) -/

/-- A word with a row's `OPC` but not its fixed bits is of no row, since no other row has that `OPC`. -/
theorem illegalWord_of_ne_pattern {r : OpRow} (hr : r ∈ opRows) {v : Word32} (hopc : opcOf v = r.opc)
    (hne : v &&& r.mask ≠ r.pattern) : IllegalWord v := by
  apply illegalWord_of_no_row
  rw [operationMap_eq_opRows, List.forall_mem_map]
  intro r' hr' hmatch
  have hopc' : r.opc = r'.opc := hopc.symm.trans ((opRow_matches_iff hr' v).mp hmatch).1
  have hsame : some r = some r' := by rw [← opRows_find r hr, hopc', opRows_find r' hr']
  obtain rfl := Option.some.inj hsame
  exact hne hmatch

/-- A word with a row's `OPC` and a set bit in a field that the row fixes to zero. -/
theorem illegalWord_of_nonzero_field {r : OpRow} (hr : r ∈ opRows) {v : Word32} (hopc : opcOf v = r.opc)
    {field : Word32} (hfixed : r.mask &&& field = field) (hzero : r.pattern &&& field = 0#32)
    (hne : v &&& field ≠ 0#32) : IllegalWord v := by
  refine illegalWord_of_ne_pattern hr hopc fun hmatch => hne ?_
  rw [← hfixed, ← BitVec.and_assoc, hmatch, hzero]

/-! ## The operations (R93 to R95) -/

/-- With `A` zero, an operation word is its `OPC` and its `IMM`. -/
theorem opWord_zero_index (opc : Byte) (imm : Word) :
    opWord opc 0#8 imm = opc.setWidth 32 <<< 24 ||| imm.setWidth 32 := by
  simp [opWord]

/-- Settles O14: the meaning is `opCrcInit`, the word the encoding, and every bit of it is fixed. -/
theorem crcInitStartsFromFF : Obligations.CrcInitStartsFromFF := by
  refine ⟨fun _ => rfl, decodeOfEncodeIsTheInstruction .crcInit, fun v hopc hne => ?_⟩
  refine illegalWord_of_ne_pattern (r := opRows[2]) (by simp) hopc ?_
  rwa [show v &&& opRows[2].mask = v from BitVec.and_allOnes]

/-- Settles O15: the meaning is `opCrcByte`, the word the encoding, and the row fixes `A` and `IMM[15:8]` to zero. -/
theorem crcByteContinuesTheRunningChecksum : Obligations.CrcByteContinuesTheRunningChecksum := by
  refine ⟨fun _ _ => rfl, fun b => ?_, fun v hopc hne => ?_⟩
  · have hword : opWord 0x11#8 0#8 (b.setWidth 16) = 0x11000000#32 ||| b.setWidth 32 := by
      simp [opWord_zero_index]
    rw [← hword]
    exact decodeOfEncodeIsTheInstruction (.crcByte b)
  · exact illegalWord_of_nonzero_field (r := opRows[3]) (by simp) hopc (by decide) (by decide) hne

/-- Settles O16: the meaning is `opCrcWord`, the word the encoding, and the row fixes `A` to zero. -/
theorem crcWordIsTheChecksumOfTwoBytes : Obligations.CrcWordIsTheChecksumOfTwoBytes := by
  refine ⟨fun _ _ => rfl, fun w => ?_, fun v hopc hne => ?_⟩
  · have hword : opWord 0x12#8 0#8 w = 0x12000000#32 ||| w.setWidth 32 := by
      simp [opWord_zero_index]
    rw [← hword]
    exact decodeOfEncodeIsTheInstruction (.crcWord w)
  · exact illegalWord_of_nonzero_field (r := opRows[4]) (by simp) hopc (by decide) (by decide) hne

end Sys2Proof.Machine

/-! PROOFS. The transmit framer and the catalog (spec/41_framer_tx.md): three operations with their encodings. -/

namespace Sys2Proof.Machine

/-! ## Operation words and the ends of operations, for every operation (R60, R137, R141) -/

/-- With `IMM` zero, an operation word is its `OPC` and its `A`. -/
theorem opWord_zero_word (opc a : Byte) :
    opWord opc a 0#16 = opc.setWidth 32 <<< 24 ||| a.setWidth 32 <<< 16 := by
  simp [opWord]

theorem decodeWord_of_encode {i : Instr} {v : Word32} (h : encode i = .opw v) : decodeWord v = .ok i := by
  have hround := decodeOfEncodeIsTheInstruction i
  rw [h] at hround
  exact hround

section
variable {op : Block → OpEnd} {s : State}

theorem operate_of_done {b : Block} (h : op s.block = .done b) :
    operate op s = { s with block := { b with err := 0#3 } } := by
  rw [operate, h, finish_done]

/-- An operation that raises before it writes anything leaves `ERR` and `STICKY` changed and nothing else. -/
theorem operate_of_raised {e : BlockError} (h : op s.block = .raised e s.block) :
    operate op s = withError (errorCode e) s := by
  rw [operate, h]
  rfl

end

/-! ## How `ENC.ARG` and `ENC.CAT` end (R103 to R105) -/

theorem opEncArg_of_frame {b : Block} (h : b.txlen = 2#3) (v : Word) :
    opEncArg v b = .done (putArgument v (crcOfWord v) { b with crc := crcOfWord v }) := if_pos h

theorem opEncArg_of_no_frame {b : Block} (h : b.txlen ≠ 2#3) (v : Word) : opEncArg v b = .raised .seq b := if_neg h

/-- The ROM holds the table of R105, row by row. -/
theorem catalogAt_of_mem_catalogTable {i : Byte} {r : CatRow} (h : (i, r) ∈ catalogTable) : catalogAt i = some r := by
  have hall : ∀ p ∈ catalogTable, catalogAt p.1 = some p.2 := by decide
  exact hall (i, r) h

theorem catalogAt_of_range {i : Byte} (h : 16 < i.toNat) : catalogAt i = none := by
  have hnone : (catalogAt i).isSome = false := by rw [catalogAt_isSome, decide_eq_false_iff_not]; omega
  simpa using hnone

theorem opEncCat_of_row {i : Byte} {r : CatRow} (h : catalogAt i = some r) (b : Block) :
    opEncCat i b = .done (putCommand r.opcode (publishRow r b)) := by
  simp only [opEncCat, h]

theorem opEncCat_of_range {i : Byte} (h : 16 < i.toNat) (b : Block) : opEncCat i b = .raised .range b := by
  simp only [opEncCat, catalogAt_of_range h]

/-! ## The obligations -/

/-- Settles O21: the meaning is `opEncCmd`, the word the encoding, and the row fixes `A` to zero. -/
theorem encCmdBuildsTheTwoByteFrame : Obligations.EncCmdBuildsTheTwoByteFrame := by
  refine ⟨fun _ _ => rfl, fun v => ?_, fun v hopc hne => ?_⟩
  · exact decodeWord_of_encode (congrArg Encoded.opw (opWord_zero_index 0x20#8 v))
  · exact illegalWord_of_nonzero_field (r := opRows[5]) (by simp) hopc (by decide) (by decide) hne

/-- Settles O22: `TXLEN` decides how `opEncArg` ends; the word is the encoding, and the row fixes `A` to zero. -/
theorem encArgAppendsArgumentAndChecksum : Obligations.EncArgAppendsArgumentAndChecksum := by
  refine ⟨fun v s hframe => ?_, fun v s hno => ?_, fun v => ?_, fun v hopc hne => ?_⟩
  · exact congrArg Host.Outcome.next (operate_of_done (opEncArg_of_frame hframe v))
  · exact congrArg Host.Outcome.next (operate_of_raised (opEncArg_of_no_frame hno v))
  · exact decodeWord_of_encode (congrArg Encoded.opw (opWord_zero_index 0x21#8 v))
  · exact illegalWord_of_nonzero_field (r := opRows[6]) (by simp) hopc (by decide) (by decide) hne

/-- Settles O23: the ROM's row at the index decides how `opEncCat` ends; the word is the encoding, and the row of the
operation map fixes `IMM` to zero. -/
theorem encCatPublishesTheRowAndItsFrame : Obligations.EncCatPublishesTheRowAndItsFrame := by
  refine ⟨fun i r s hrow => ?_, fun i s hrange => ?_, fun i => ?_, fun v hopc hne => ?_⟩
  · exact congrArg Host.Outcome.next (operate_of_done (opEncCat_of_row (catalogAt_of_mem_catalogTable hrow) _))
  · exact congrArg Host.Outcome.next (operate_of_raised (opEncCat_of_range hrange _))
  · exact decodeWord_of_encode (congrArg Encoded.opw (opWord_zero_word 0x22#8 i))
  · exact illegalWord_of_nonzero_field (r := opRows[7]) (by simp) hopc (by decide) (by decide) hne

end Sys2Proof.Machine

/-! PROOFS. The receive framer (spec/42_framer_rx.md): words become valid only through the checksum, whatever the step. -/

namespace Sys2Proof.Machine

/-! ## What a step may do to a word (R116): keep it, clear it, or take it from its group of `RXB` -/

/-- Word `k` after, against word `k` before: a valid word was valid before and is the same, or is its group of `RXB`; a
word that is not valid is the same or zero. -/
def WordTraced (b b' : Block) (k : Fin 3) : Prop :=
  (b'.wv[k] = true → (b.wv[k] = true ∧ b'.w[k] = b.w[k]) ∨
    decodeGroup (rxAt b' (3 * k.val)) (rxAt b' (3 * k.val + 1)) (rxAt b' (3 * k.val + 2)) = some b'.w[k]) ∧
  (b'.wv[k] = false → b'.w[k] = b.w[k] ∨ b'.w[k] = 0#16)

/-- Every word is traced. -/
def Traced (b b' : Block) : Prop := ∀ k : Fin 3, WordTraced b b' k

section
variable {b b' : Block} {k : Fin 3}

theorem WordTraced.of_kept (hw : b'.w[k] = b.w[k]) (hwv : b'.wv[k] = b.wv[k]) : WordTraced b b' k :=
  ⟨fun hvalid => .inl ⟨hwv ▸ hvalid, hw⟩, fun _ => .inl hw⟩

theorem WordTraced.of_invalid (hwv : b'.wv[k] = false) (hw : b'.w[k] = b.w[k] ∨ b'.w[k] = 0#16) : WordTraced b b' k :=
  ⟨fun hvalid => by simp [hwv] at hvalid, fun _ => hw⟩

/-- A group whose CRC byte matches is what `decode_word` accepts (R110). -/
theorem WordTraced.of_group (hwv : b'.wv[k] = true) (hw : b'.w[k] = groupWord b' k.val)
    (hmatch : groupCrc b' k.val = groupReceived b' k.val) : WordTraced b b' k :=
  ⟨fun _ => .inr ((decodeGroup_eq_some _ _ _ _).mpr ⟨hmatch, hw.symm⟩), fun hinvalid => by simp [hwv] at hinvalid⟩

end

/-- The words and their valid bits are as before, or as reset leaves them. -/
def WordsKept (b b' : Block) : Prop :=
  (b'.w = b.w ∧ b'.wv = b.wv) ∨ (b'.w = Block.reset.w ∧ b'.wv = Block.reset.wv)

/-- The words, their valid bits and the response bytes are as before, or the words as reset leaves them. -/
def ResponseKept (b b' : Block) : Prop :=
  (b'.w = b.w ∧ b'.wv = b.wv ∧ b'.rxb = b.rxb) ∨ (b'.w = Block.reset.w ∧ b'.wv = Block.reset.wv)

section
variable {b b' b'' : Block}

theorem ResponseKept.refl (b : Block) : ResponseKept b b := .inl ⟨rfl, rfl, rfl⟩

theorem ResponseKept.trans (h : ResponseKept b b') (h' : ResponseKept b' b'') : ResponseKept b b'' := by
  rcases h' with ⟨hw', hwv', hrxb'⟩ | hreset
  · simpa only [ResponseKept, hw', hwv', hrxb'] using h
  · exact .inr hreset

theorem ResponseKept.wordsKept (h : ResponseKept b b') : WordsKept b b' :=
  h.imp_left fun ⟨hw, hwv, _⟩ => ⟨hw, hwv⟩

theorem WordsKept.trans (h : WordsKept b b') (h' : WordsKept b' b'') : WordsKept b b'' := by
  rcases h' with ⟨hw', hwv'⟩ | hreset
  · simpa only [WordsKept, hw', hwv'] using h
  · exact .inr hreset

/-- The words as reset leaves them are not valid, and zero (R29). -/
theorem WordTraced.of_reset {k : Fin 3} (hw : b'.w = Block.reset.w) (hwv : b'.wv = Block.reset.wv) :
    WordTraced b b' k := by
  refine .of_invalid ?_ (.inr ?_)
  · rw [hwv]; fin_cases k <;> rfl
  · rw [hw]; fin_cases k <;> rfl

theorem WordsKept.traced (h : WordsKept b b') : Traced b b' := fun k => by
  rcases h with ⟨hw, hwv⟩ | ⟨hw, hwv⟩
  · exact .of_kept (by rw [hw]) (by rw [hwv])
  · exact .of_reset hw hwv

theorem Traced.after_wordsKept (h : WordsKept b b') (h' : Traced b' b'') : Traced b b'' := fun k => by
  rcases h with ⟨hw, hwv⟩ | ⟨hw, hwv⟩
  · simpa only [WordTraced, hw, hwv] using h' k
  · obtain ⟨hvalid', hinvalid'⟩ := h' k
    have hcleared : b'.wv[k] = false := by rw [hwv]; fin_cases k <;> rfl
    have hzero : b'.w[k] = 0#16 := by rw [hw]; fin_cases k <;> rfl
    refine ⟨fun hv => .inr ((hvalid' hv).resolve_left fun hbefore => ?_), fun hv => .inr ?_⟩
    · simp [hcleared] at hbefore
    · exact (hinvalid' hv).elim (fun hsame => hsame.trans hzero) id

/-- As long as `RXB` stands, so does the group a word came from. -/
theorem Traced.then_responseKept (h : Traced b b') (h' : ResponseKept b' b'') : Traced b b'' := fun k => by
  rcases h' with ⟨hw, hwv, hrxb⟩ | ⟨hw, hwv⟩
  · simpa only [WordTraced, hw, hwv, rxAt_congr hrxb] using h k
  · exact .of_reset hw hwv

end

/-! ## The operations of the block -/

theorem opEncArg_responseKept (v : Word) (b : Block) : ResponseKept b (finish (opEncArg v b)) := by
  rcases opEncArg_cases v b with ⟨_, e⟩ | ⟨_, e⟩ <;> rw [e] <;> exact .inl ⟨rfl, rfl, rfl⟩

theorem opEncCat_responseKept (i : Byte) (b : Block) : ResponseKept b (finish (opEncCat i b)) := by
  rcases opEncCat_cases i b with ⟨_, _, e⟩ | ⟨_, e⟩ <;> rw [e] <;> exact .inl ⟨rfl, rfl, rfl⟩

theorem opCvtMeas_responseKept (b : Block) : ResponseKept b (finish (opCvtMeas b)) := by
  rcases opCvtMeas_cases b with ⟨_, e⟩ | ⟨_, e⟩ <;> rw [e] <;> exact .inl ⟨rfl, rfl, rfl⟩

theorem opRxByte_wordsKept (v : Byte) (b : Block) : WordsKept b (finish (opRxByte v b)) := by
  rcases opRxByte_cases v b with ⟨_, e⟩ | ⟨_, e⟩ <;> rw [e] <;> exact .inl ⟨rfl, rfl⟩

/-- `DEC.WORD k` clears the valid bit of word `k`, and sets it only for a group that matches (R114). -/
theorem opDecWord_traced (k : Byte) (b : Block) : Traced b (finish (opDecWord k b)) := by
  rcases opDecWord_cases k b with ⟨_, e⟩ | ⟨_, _, e⟩ | ⟨_, _, _, e⟩ | ⟨_, _, hmatch, e⟩ <;> rw [e]
  · exact WordsKept.traced (.inl ⟨rfl, rfl⟩)
  · exact WordsKept.traced (.inl ⟨rfl, rfl⟩)
  · intro i
    by_cases hi : k.toNat = i.val
    · exact .of_invalid (by simp [hi]) (.inl rfl)
    · exact .of_kept rfl (by simp [hi])
  · intro i
    by_cases hi : k.toNat = i.val
    · rw [hi] at hmatch ⊢
      exact .of_group (by simp [storeWord]) (by simp [storeWord, groupWord, rxAt]) hmatch
    · exact .of_kept (by simp [storeWord, hi]) (by simp [storeWord, hi])

/-- `DEC.ALL` clears every valid bit, and sets those of its groups only where all of them match (R115). -/
theorem opDecAll_traced (n : Byte) (b : Block) : Traced b (finish (opDecAll n b)) := by
  rcases opDecAll_cases n b with ⟨_, e⟩ | ⟨_, _, e⟩ | ⟨_, _, _, e⟩ | ⟨_, _, hscan, e⟩ <;> rw [e]
  · exact WordsKept.traced (.inl ⟨rfl, rfl⟩)
  · exact WordsKept.traced (.inl ⟨rfl, rfl⟩)
  · exact fun i => .of_invalid (by fin_cases i <;> rfl) (.inl rfl)
  · intro i
    obtain ⟨hw, hwv⟩ := getElem_storeGroups b n.toNat 0
      { startAll b with crc := (scanGroups b n.toNat 0 b.crc).1 } i.val i.isLt
    by_cases hi : 0 ≤ i.val ∧ i.val < 0 + n.toNat
    · rw [if_pos hi] at hw hwv
      rw [storeGroups_frame]
      exact .of_group hwv hw ((scanGroups_ok b n.toNat 0 b.crc).mp hscan i.val hi.1 hi.2)
    · rw [if_neg hi] at hw hwv
      exact .of_invalid (hwv.trans (by fin_cases i <;> rfl)) (.inl hw)

/-- One change of the block: only `DEC.WORD` and `DEC.ALL` write a word or set a valid bit, and only reset and `CLR`
zero them. -/
theorem BlockStep.traced {b b' : Block} (h : BlockStep b b') : Traced b b' := by
  cases h with
  | nop | crcInit | crcByte | crcWord | encCmd | rxClr | illegal => exact WordsKept.traced (.inl ⟨rfl, rfl⟩)
  | clr | reset => exact WordsKept.traced (.inr ⟨rfl, rfl⟩)
  | encArg v => exact (opEncArg_responseKept v b).wordsKept.traced
  | encCat i => exact (opEncCat_responseKept i b).wordsKept.traced
  | rxByte v => exact (opRxByte_wordsKept v b).traced
  | decWord k => exact opDecWord_traced k b
  | decAll n => exact opDecAll_traced n b
  | cvtMeas => exact (opCvtMeas_responseKept b).wordsKept.traced

/-! ## The parts of an exchange: only loading writes `RXB`, and only decoding after it writes a word -/

/-- Where a part and what follows it leave the block: what `Q` says of the first part's end is kept where the call stops
there, and carried on where it goes on. -/
theorem andThen_block {α β : Type} {Q P : Block → Prop} {x : Exchange α} {f : α → State → Exchange β}
    (hx : Q (endState x).block) (hstop : ∀ b, Q b → P b)
    (hgo : ∀ v s, Q s.block → P (endState (f v s)).block) : P (endState (andThen x f)).block := by
  cases x with
  | ok v s => exact hgo v s hx
  | error e s => exact hstop _ hx
  | noReturn s => exact hstop _ hx

theorem accessPoint_responseKept (s : State) : ResponseKept s.block (accessPoint s).block := by
  rcases accessPoint_block s with e | e <;> rw [e]
  · exact .refl _
  · exact .inr ⟨rfl, rfl⟩

theorem hostOperate_responseKept {op : Block → OpEnd} (hop : ∀ b, ResponseKept b (finish (op b))) (s : State) :
    ResponseKept s.block (hostOperate op s).block :=
  (accessPoint_responseKept s).trans (hop _)

theorem hostOperate_wordsKept {op : Block → OpEnd} (hop : ∀ b, WordsKept b (finish (op b))) (s : State) :
    WordsKept s.block (hostOperate op s).block :=
  (accessPoint_responseKept s).wordsKept.trans (hop _)

theorem readTx_responseKept (is : List Nat) (s : State) : ResponseKept s.block (readTx is s).2.block := by
  induction is generalizing s with
  | nil => exact .refl _
  | cons i rest ih => exact (accessPoint_responseKept s).trans (ih (accessPoint s))

theorem readFrame_responseKept (s : State) : ResponseKept s.block (readFrame s).2.block :=
  (accessPoint_responseKept s).trans (readTx_responseKept _ _)

theorem checkStatus_responseKept (valid : Block → Bool) (s : State) :
    ResponseKept s.block (endState (checkStatus valid s)).block := by
  rcases checkStatus_cases valid s with ⟨_, _, e⟩ | ⟨_, e⟩ | ⟨_, _, e⟩ <;> rw [e] <;> exact accessPoint_responseKept s

theorem writeFrame_responseKept (s : State) : ResponseKept s.block (endState (writeFrame s)).block := by
  rw [writeFrame, writeBytes_block]
  exact readFrame_responseKept s

theorem sendFrame_responseKept (s : State) : ResponseKept s.block (endState (sendFrame s)).block := by
  refine andThen_block ((readFrame_responseKept s).trans (checkStatus_responseKept _ _)) (fun _ => id) fun _ s' h => ?_
  rwa [writeBytes_block]

theorem sendOnly_responseKept (c : WireCmd) (s : State) : ResponseKept s.block (endState (sendOnly c s)).block := by
  refine andThen_block (sendFrame_responseKept s) (fun _ => id) fun _ s' h => ?_
  rwa [endState, sleepDelay_block]

theorem sendAndRead_responseKept (c : WireCmd) (s : State) : ResponseKept s.block (endState (sendAndRead c s)).block := by
  refine andThen_block (sendOnly_responseKept c s) (fun _ => id) fun _ s' h => ?_
  rwa [readBytes_block]

theorem encodeCommand_responseKept (c : WireCmd) (s : State) : ResponseKept s.block (encodeCommand c s).block :=
  hostOperate_responseKept (opEncCat_responseKept _) s

theorem encodeWithArgument_responseKept (c : WireCmd) (arg : Word) (s : State) :
    ResponseKept s.block (encodeWithArgument c arg s).block :=
  (encodeCommand_responseKept c s).trans (hostOperate_responseKept (opEncArg_responseKept arg) _)

theorem loadBytes_wordsKept (bytes : List Byte) (s : State) : WordsKept s.block (loadBytes bytes s).block := by
  induction bytes generalizing s with
  | nil => exact (ResponseKept.refl _).wordsKept
  | cons v rest ih => exact (hostOperate_wordsKept (opRxByte_wordsKept v) s).trans (ih _)

theorem loadResponse_wordsKept (bytes : List Byte) (s : State) : WordsKept s.block (loadResponse bytes s).block :=
  (hostOperate_wordsKept (op := opRxClr) (fun _ => .inl ⟨rfl, rfl⟩) s).trans (loadBytes_wordsKept bytes _)

theorem receiveBytes_wordsKept (len : Nat) (s : State) : WordsKept s.block (endState (receiveBytes len s)).block := by
  have hread : ResponseKept s.block (endState (readBytes len s)).block := by rw [readBytes_block]; exact .refl _
  refine andThen_block hread.wordsKept (fun _ => id) fun bytes s' h => ?_
  exact (h.trans (loadResponse_wordsKept bytes s')).trans (checkStatus_responseKept _ _).wordsKept

theorem decodeResponse_traced (c : WireCmd) (s : State) : Traced s.block (endState (decodeResponse c s)).block :=
  have hdecode : Traced s.block (hostOperate (opDecAll ((catalogRow c).respWords.setWidth 8)) s).block :=
    .after_wordsKept (accessPoint_responseKept s).wordsKept (opDecAll_traced _ _)
  hdecode.then_responseKept (checkStatus_responseKept _ _)

theorem exchangeWithResponse_traced (c : WireCmd) (s : State) :
    Traced s.block (endState (exchangeWithResponse c s)).block := by
  refine andThen_block (((encodeCommand_responseKept c s).trans (sendAndRead_responseKept c _)).wordsKept)
    (fun _ => WordsKept.traced) fun bytes s' h => ?_
  exact .after_wordsKept (h.trans (loadResponse_wordsKept bytes s')) (decodeResponse_traced c _)

/-! ## The host's calls -/

/-- What the host does to read its values after an exchange. -/
def ViewKeepsResponse (view : State → HostValue × State) : Prop := ∀ s, ResponseKept s.block (view s).2.block

theorem oneWordView_keepsResponse (f : Word → HostValue) : ViewKeepsResponse (oneWordView f) := accessPoint_responseKept

theorem serialView_keepsResponse : ViewKeepsResponse serialView := fun s =>
  ((accessPoint_responseKept s).trans (accessPoint_responseKept _)).trans (accessPoint_responseKept _)

theorem measurementView_keepsResponse : ViewKeepsResponse measurementView := fun s =>
  (((hostOperate_responseKept opCvtMeas_responseKept s).trans (accessPoint_responseKept _)).trans
    (accessPoint_responseKept _)).trans (accessPoint_responseKept _)

/-- The body of a call traces every word. -/
def BodyTraced (body : State → Exchange HostValue) : Prop := ∀ s, Traced s.block (endState (body s)).block

theorem encodeAndSend_responseKept (c : WireCmd) (s : State) :
    ResponseKept s.block (endState (sendOnly c (encodeCommand c s))).block :=
  (encodeCommand_responseKept c s).trans (sendOnly_responseKept c _)

theorem plainBody_traced (c : WireCmd) : BodyTraced (plainBody c) := fun s =>
  andThen_block (encodeAndSend_responseKept c s) (fun _ h => h.wordsKept.traced) fun _ _ h => h.wordsKept.traced

theorem argumentBody_traced (c : WireCmd) (arg : Word) : BodyTraced (argumentBody c arg) := fun s =>
  andThen_block ((encodeWithArgument_responseKept c arg s).trans (sendOnly_responseKept c _))
    (fun _ h => h.wordsKept.traced) fun _ _ h => h.wordsKept.traced

theorem responseBody_traced (c : WireCmd) (valid : Block → Bool) {view : State → HostValue × State}
    (hview : ViewKeepsResponse view) : BodyTraced (responseBody c valid view) := fun s => by
  refine andThen_block (exchangeWithResponse_traced c s) (fun _ => id) fun _ s' h => ?_
  refine andThen_block (Q := Traced s.block) ?_ (fun _ => id) fun _ _ h' => h'
  exact h.then_responseKept ((hview s').trans (checkStatus_responseKept _ _))

theorem BodyTraced.leadingTo {body : State → Exchange HostValue} (h : BodyTraced body) (m : SensorMode) (keeps : Bool) :
    BodyTraced fun s => leadingTo m keeps (body s) := fun s => by
  rw [leadingTo_block]
  exact h s

/-- Only the last of the three exchanges of a single shot has a response (R179). -/
theorem singleShotBody_traced : BodyTraced singleShotBody := fun s => by
  refine andThen_block (Q := ResponseKept s.block) ?_ (fun _ h => h.wordsKept.traced) fun _ s1 h1 => ?_
  · rw [leadingTo_block]
    exact encodeAndSend_responseKept _ s
  refine andThen_block (Q := ResponseKept s.block) ?_ (fun _ h => h.wordsKept.traced) fun _ s2 h2 => ?_
  · rw [asWakeupError_block]
    exact h1.trans (encodeAndSend_responseKept _ s1)
  have hread := responseBody_traced .readMeasurement (·.mv) measurementView_keepsResponse
    (noteMode (some .idle) true s2.host.stopOwed s2)
  rw [noteMode_block] at hread
  exact hread.after_wordsKept h2.wordsKept

theorem hostCall_traced (c : WireCmd) {body : State → Exchange HostValue} (h : BodyTraced body) (s : State) :
    Traced s.block (hostCall c body s).block := by
  unfold hostCall
  split
  · have hbody := h s
    cases hb : body s <;> rw [hb] at hbody <;> exact hbody
  · exact (ResponseKept.refl _).wordsKept.traced

/-! ## Instructions, host actions and steps -/

/-- An operation is one change of the block; a wire command is a host call, whose body traces every word. -/
theorem exec_traced {i : Instr} {s t : State} (h : exec i s = .next t) : Traced s.block t.block := by
  cases i <;> (injection h with h; subst h)
  case nop => exact (BlockStep.nop _).traced
  case clr => exact (BlockStep.clr _).traced
  case crcInit => exact (BlockStep.crcInit _).traced
  case crcByte v => exact (BlockStep.crcByte v _).traced
  case crcWord v => exact (BlockStep.crcWord v _).traced
  case encCmd v => exact (BlockStep.encCmd v _).traced
  case encArg v => exact (BlockStep.encArg v _).traced
  case encCat k => exact (BlockStep.encCat k _).traced
  case rxClr => exact (BlockStep.rxClr _).traced
  case rxByte v => exact (BlockStep.rxByte v _).traced
  case decWord k => exact (BlockStep.decWord k _).traced
  case decAll n => exact (BlockStep.decAll n _).traced
  case cvtMeas => exact (BlockStep.cvtMeas _).traced
  case reinit | persistSettings => exact hostCall_traced _ (plainBody_traced _) s
  case wakeup | startPeriodicMeasurement | stopPeriodicMeasurement =>
    exact hostCall_traced _ ((plainBody_traced _).leadingTo _ _) s
  case setSensorAltitude | setAmbientPressure | setAscEnabled | setAscTarget =>
    exact hostCall_traced _ (argumentBody_traced _ _) s
  case getSerialNumber => exact hostCall_traced _ (responseBody_traced _ _ serialView_keepsResponse) s
  case readMeasurement => exact hostCall_traced _ (responseBody_traced _ _ measurementView_keepsResponse) s
  case singleShotMeasurement => exact hostCall_traced _ singleShotBody_traced s
  all_goals exact hostCall_traced _ (responseBody_traced _ _ (oneWordView_keepsResponse _)) s

theorem performWord_traced {v : Word32} {s t : State} (h : performWord v s = .next t) : Traced s.block t.block := by
  unfold performWord at h
  split at h
  · exact exec_traced h
  · injection h with h
    subst h
    exact (BlockStep.illegal _).traced

theorem endPart_traced {x : Exchange Unit} {s t : State} (hx : WordsKept s.block (endState x).block)
    (h : endPart x = .next t) : Traced s.block t.block := by
  cases x <;> (injection h with h; subst h; exact hx.traced)

theorem perform_traced {a : HostAction} {s t : State} (h : perform a s = .next t) : Traced s.block t.block := by
  cases a with
  | regRead n =>
    simp only [perform, performRead] at h
    split at h <;> cases h
    exact (ResponseKept.refl _).wordsKept.traced
  | regWrite n v =>
    simp only [perform, performWrite] at h
    split at h
    · exact performWord_traced h
    · cases h
  | command bytes =>
    simp only [perform, performFrame] at h
    split at h
    · exact exec_traced h
    · cases h
  | api call => exact exec_traced h
  | send => exact endPart_traced (writeFrame_responseKept s).wordsKept h
  | sleep ms =>
    cases h
    exact (ResponseKept.refl _).wordsKept.traced
  | receive len => exact endPart_traced (receiveBytes_wordsKept len s) h
  | otherHost => cases h

/-- Settles O29: a reset event clears the words, and a host action loads a response before it decodes it. -/
theorem everyValidWordPassedTheChecksum : Obligations.EveryValidWordPassedTheChecksum := by
  intro s t h
  rcases step_cases s with ⟨_, e⟩ | ⟨_, _, e⟩ | ⟨a, rest, _, _, _, e⟩ <;> rw [e] at h
  · cases h
    exact (accessPoint_responseKept s).wordsKept.traced
  · cases h
    exact (accessPoint_responseKept s).wordsKept.traced
  · have htraced := perform_traced h
    exact htraced

end Sys2Proof.Machine

/-! PROOFS. The receive framer's four operations with their encodings (spec/42_framer_rx.md R112 to R115), and the
argument's frame read back as a group (R117). -/

namespace Sys2Proof.Machine

/-! ## `RX.CLR` and `RX.BYTE` (R112, R113) -/

/-- Settles O24: the meaning is `opRxClr`, the word the encoding, and every bit of it is fixed. -/
theorem rxClrEmptiesTheBuffer : Obligations.RxClrEmptiesTheBuffer := by
  refine ⟨fun _ => rfl, decodeWord_of_encode (i := .rxClr) rfl, fun v hopc hne => ?_⟩
  refine illegalWord_of_ne_pattern (r := opRows[8]) (by simp) hopc ?_
  rwa [show v &&& opRows[8].mask = v from BitVec.and_allOnes]

theorem opRxByte_of_room {b : Block} (h : b.rxlen.toNat < 9) (v : Byte) : opRxByte v b = .done (pushByte v b) :=
  if_neg h.not_ge

theorem opRxByte_of_full {b : Block} (h : b.rxlen = 9#4) (v : Byte) : opRxByte v b = .raised .length b :=
  if_pos (by simp [h])

/-- A full buffer drops the byte. -/
theorem exec_rxByte_of_full {s : State} (h : s.block.rxlen = 9#4) (v : Byte) :
    exec (.rxByte v) s = .next (withError 4#3 s) :=
  congrArg Host.Outcome.next (operate_of_raised (opRxByte_of_full h v))

/-- Settles O25: `RXLEN` decides how `opRxByte` ends; the word is the encoding, and the row fixes `A` and `IMM[15:8]` to
zero. -/
theorem rxByteLoadsTheNextByte : Obligations.RxByteLoadsTheNextByte := by
  refine ⟨fun v s hroom => ?_, fun v s hfull => exec_rxByte_of_full hfull v, fun v => ?_, fun v hopc hne => ?_⟩
  · exact congrArg Host.Outcome.next (operate_of_done (opRxByte_of_room hroom v))
  · have hword : opWord 0x31#8 0#8 (v.setWidth 16) = 0x31000000#32 ||| v.setWidth 32 := by
      simp [opWord_zero_index]
    exact decodeWord_of_encode (congrArg Encoded.opw hword)
  · exact illegalWord_of_nonzero_field (r := opRows[9]) (by simp) hopc (by decide) (by decide) hne

/-! ## `DEC.WORD` (R114) -/

/-- The block after `DEC.WORD` of a group that matches, field by field. -/
theorem storeWord_startWord (k : Nat) (v : Word) (c : Byte) (b : Block) :
    storeWord k v { startWord k b with crc := c } =
      { b with mv := false, wv := b.wv.setIfInBounds k true, w := b.w.setIfInBounds k v, crc := c } := by
  simp [storeWord, startWord]

/-- Settles O26: the group's number, the bytes loaded and the checksum decide how `opDecWord` ends; the word is the
encoding, and the row fixes `IMM` to zero. -/
theorem decWordValidatesOneGroup : Obligations.DecWordValidatesOneGroup := by
  refine ⟨fun k s hrange => ?_, fun k s hk hshort => ?_, fun k s m l c hk hloaded hm hl hc => ?_, fun k => ?_,
    fun v hopc hne => ?_⟩
  · exact congrArg Host.Outcome.next (operate_of_raised (opDecWord_of_range hrange))
  · exact congrArg Host.Outcome.next (operate_of_raised (opDecWord_of_length hk hshort))
  · subst hm hl hc
    refine ⟨fun hne => congrArg Host.Outcome.next ?_, fun heq => congrArg Host.Outcome.next ?_⟩
    · rw [operate, opDecWord_of_mismatch hk hloaded hne]
      rfl
    · rw [operate, opDecWord_of_match hk hloaded heq, storeWord_startWord]
      rfl
  · exact decodeWord_of_encode (congrArg Encoded.opw (opWord_zero_word 0x32#8 k))
  · exact illegalWord_of_nonzero_field (r := opRows[10]) (by simp) hopc (by decide) (by decide) hne

/-! ## `DEC.ALL` (R115) -/

/-- A scan stops at the first group that fails, with its checksum. -/
theorem scanGroups_of_first_mismatch {b : Block} {n k g : Nat} (hg : g < n)
    (hbefore : ∀ j < g, groupCrc b (k + j) = groupReceived b (k + j))
    (hne : groupCrc b (k + g) ≠ groupReceived b (k + g)) (c : Byte) :
    scanGroups b n k c = (groupCrc b (k + g), false) := by
  induction n generalizing k g c with
  | zero => omega
  | succ n ih =>
    cases g with
    | zero => exact if_neg hne
    | succ g =>
      have hfirst : groupCrc b k = groupReceived b k := hbefore 0 (by omega)
      have hshift (j : Nat) : k + 1 + j = k + (j + 1) := by omega
      have hrest : scanGroups b n (k + 1) (groupCrc b k) = (groupCrc b (k + 1 + g), false) :=
        ih (by omega) (fun j hj => by rw [hshift]; exact hbefore (j + 1) (by omega)) (by rwa [hshift]) _
      rw [scanGroups, if_pos hfirst, hrest, hshift]

/-- A response of one group that matches: the other two words stay as they were, not valid. -/
theorem opDecAll_one_of_match {b : Block} (hlen : b.rxlen = 3#4) (hmatch : groupCrc b 0 = groupReceived b 0) :
    opDecAll 1#8 b = .done { b with
      mv := false, wv := #v[true, false, false], w := #v[groupWord b 0, b.w[1], b.w[2]], crc := groupCrc b 0 } := by
  have hscan : scanGroups b 1 0 b.crc = (groupCrc b 0, true) := if_pos hmatch
  rw [opDecAll_of_match (.inl rfl) (by simp [hlen]) hscan]
  have hstore (b' : Block) : storeGroups b (1#8 : Byte).toNat 0 b' = storeWord 0 (groupWord b 0) b' := rfl
  rw [hstore]
  simp [storeWord, startAll, vector3_set0]

/-- Settles O27: the number of groups, the bytes loaded and the scan decide how `opDecAll` ends; the word is the encoding,
and the row fixes `IMM` to zero. -/
theorem decAllValidatesAllGroupsOrNone : Obligations.DecAllValidatesAllGroupsOrNone := by
  refine ⟨fun n s h1 h3 => ?_, fun n s hn hlen => ?_, fun n s g hn hlen hg hbefore hne => ?_, fun s hlen hmatch => ?_,
    fun s hlen hmatch => ?_, fun n => ?_, fun v hopc hne => ?_⟩
  · exact congrArg Host.Outcome.next (operate_of_raised (opDecAll_of_range ⟨h1, h3⟩))
  · exact congrArg Host.Outcome.next (operate_of_raised (opDecAll_of_length hn hlen))
  · have hscan : scanGroups s.block n.toNat 0 s.block.crc = (groupCrc s.block g, false) := by
      simpa using scanGroups_of_first_mismatch (k := 0) hg (by simpa using hbefore) (by simpa using hne) s.block.crc
    refine congrArg Host.Outcome.next ?_
    rw [operate, opDecAll_of_mismatch hn hlen hscan]
    rfl
  · exact congrArg Host.Outcome.next (operate_of_done (opDecAll_one_of_match hlen hmatch))
  · exact congrArg Host.Outcome.next (operate_of_done (opDecAll_three_of_match hlen hmatch))
  · exact decodeWord_of_encode (congrArg Encoded.opw (opWord_zero_word 0x33#8 n))
  · exact illegalWord_of_nonzero_field (r := opRows[11]) (by simp) hopc (by decide) (by decide) hne

/-! ## Framing and decoding (R110, R117) -/

theorem decodeGroup_split (v : Word) : decodeGroup (msbOf v) (lsbOf v) (crc8 (be16 v)) = some v :=
  (decodeGroup_eq_some _ _ _ _).mpr ⟨rfl, joinBytes_split v⟩

theorem decodeGroup_isSome_iff (m l c : Byte) : (decodeGroup m l c).isSome = true ↔ crc8 [m, l] = c := by
  simp [Option.isSome_iff_exists, decodeGroup_eq_some]

/-- Settles O28: `ENC.ARG` puts the argument's two bytes and their checksum behind the opcode. -/
theorem argumentFrameTailIsAValidGroup : Obligations.ArgumentFrameTailIsAValidGroup := by
  refine ⟨decodeGroup_split, fun v s t hframe h => ?_, fun m l => ?_⟩
  · rw [encArgAppendsArgumentAndChecksum.1 v s hframe] at h
    injection h with h
    subst h
    exact decodeGroup_split v
  · simp only [decodeGroup_isSome_iff, existsUnique_eq']

end Sys2Proof.Machine

/-! PROOFS. The parts of an exchange by themselves (spec/70_reset_and_hazards.md R170, R171). -/

namespace Sys2Proof.Machine

/-! ## `RX.LOAD` of more bytes than the buffer holds (R113) -/

/-- A full buffer drops every further byte, and there is at least one. -/
theorem execAll_rxBytes_of_full {s : State} (hfull : s.block.rxlen = 9#4) (v : Byte) (rest : List Byte) :
    execAll ((v :: rest).map .rxByte) s = .next (withError 4#3 s) := by
  induction rest generalizing s v with
  | nil => rw [List.map_cons, execAll, exec_rxByte_of_full hfull]; rfl
  | cons v' rest ih =>
    rw [List.map_cons, execAll, exec_rxByte_of_full hfull]
    exact ih (s := withError 4#3 s) hfull v'

/-- The first nine bytes are loaded; the others are dropped with `LENGTH`. -/
theorem execAll_rxLoad_of_overflow {bytes : List Byte} (hlen : 9 < bytes.length) (s : State) :
    execAll (rxLoad bytes) s = .next (withError 4#3 (withResponse (bytes.take 9) s)) := by
  have hsplit : rxLoad bytes = rxLoad (bytes.take 9) ++ (bytes.drop 9).map .rxByte := by
    simp [rxLoad, List.take_append_drop]
  obtain ⟨v, rest, hdrop⟩ := List.exists_cons_of_length_pos (l := bytes.drop 9) (by simp; omega)
  rw [hsplit, execAll_append (execAll_rxLoad (by simp) s), hdrop]
  have hfull : (bytes.take 9).length = 9 := by simp; omega
  exact execAll_rxBytes_of_full (by simp only [withResponse, hfull]) v rest

/-! ## Without a reset event, the host free -/

section
variable {s : State} (hquiet : s.host.resets = [])
include hquiet

theorem hostOperate_quiet (op : Block → OpEnd) : hostOperate op s = operate op s := by
  rw [hostOperate, accessPoint_quiet s hquiet]

theorem writeFrame_quiet : writeFrame s = writeBytes (frameBytes s.block) s := by
  rw [writeFrame, readFrame_quiet s hquiet]

/-- The host loads a response as `RX.LOAD` does. -/
theorem execAll_rxLoad_quiet (bytes : List Byte) : execAll (rxLoad bytes) s = .next (loadResponse bytes s) := by
  have hbytes : ∀ t : State, t.host.resets = [] → execAll (bytes.map .rxByte) t = .next (loadBytes bytes t) := by
    induction bytes with
    | nil => exact fun _ _ => rfl
    | cons v rest ih =>
      intro t ht
      rw [loadBytes, hostOperate_quiet ht]
      exact ih (operate (opRxByte v) t) ht
  rw [loadResponse, hostOperate_quiet hquiet]
  exact hbytes (operate opRxClr s) hquiet

theorem loadResponse_of_fits {bytes : List Byte} (hlen : bytes.length ≤ 9) :
    loadResponse bytes s = withResponse bytes s := by
  have h := execAll_rxLoad hlen s
  rw [execAll_rxLoad_quiet hquiet] at h
  injection h

theorem loadResponse_of_overflow {bytes : List Byte} (hlen : 9 < bytes.length) :
    loadResponse bytes s = withError 4#3 (withResponse (bytes.take 9) s) := by
  have h := execAll_rxLoad_of_overflow hlen s
  rw [execAll_rxLoad_quiet hquiet] at h
  injection h

theorem step_quiet {a : HostAction} {rest : List HostAction} (hfree : s.host.hung = false)
    (hpending : s.host.pending = a :: rest) :
    step s = perform a { s with host := { s.host with pending := rest } } := by
  rw [step_of_pending (by simp [resetDue, hquiet]) hfree hpending, hquiet, List.tail_nil, ← hquiet]

/-- A `LENGTH` that the host reads in `STATUS` ends the part (R153). -/
theorem checkStatus_of_length (valid : Block → Bool) (herr : s.block.err = 4#3) :
    checkStatus valid s = .error (Config.statusErrorKind (statusWord s.block)) s := by
  simp [checkStatus, accessPoint_quiet s hquiet, herr, errorCode]

end

/-! ## The transport's answer to a call -/

/-- After a transport call that was answered, with these answers left. -/
def answered (c : TransportCall) (more : List TransportReply) (s : State) : State :=
  { s with host := { s.host with wire := s.host.wire ++ [c], replies := more, calls := s.host.calls + 1 } }

section
variable {s : State} {r : TransportReply} {more : List TransportReply} (hreplies : s.host.replies = r :: more)
include hreplies

theorem nextReply_of_cons : nextReply s.host = r := by rw [nextReply, hreplies]

theorem recordCall_of_cons (c : TransportCall) : recordCall c s = answered c more s := by
  rw [recordCall, hreplies, List.tail_cons, answered]

end

theorem readBytes_of_ok {s : State} {bytes : List Byte} {more : List TransportReply}
    (hreplies : s.host.replies = .ok bytes :: more) :
    readBytes bytes.length s = .ok bytes (answered (.read Config.busAddr bytes.length) more s) := by
  simp [readBytes, nextReply_of_cons hreplies, recordCall_of_cons hreplies]

/-! ## `write` and `read` as parts (R170, R171) -/

section
variable {s : State} {more : List TransportReply} (hquiet : s.host.resets = []) (hfree : s.host.hung = false)
include hquiet

theorem receiveBytes_of_fits {bytes : List Byte} (hreplies : s.host.replies = .ok bytes :: more)
    (hlen : bytes.length ≤ 9) : receiveBytes bytes.length s =
      .ok () (withResponse bytes (answered (.read Config.busAddr bytes.length) more s)) := by
  rw [receiveBytes, readBytes_of_ok hreplies, andThen, loadResponse_of_fits (by exact hquiet) hlen]
  exact checkStatus_quiet _ _ hquiet rfl rfl

theorem receiveBytes_of_overflow {bytes : List Byte} (hreplies : s.host.replies = .ok bytes :: more)
    (hlen : 9 < bytes.length) : receiveBytes bytes.length s =
      .error (Config.statusErrorKind (statusWord (withError 4#3 (withResponse (bytes.take 9) s)).block))
        (withError 4#3 (withResponse (bytes.take 9) (answered (.read Config.busAddr bytes.length) more s))) := by
  rw [receiveBytes, readBytes_of_ok hreplies, andThen, loadResponse_of_overflow (by exact hquiet) hlen]
  exact checkStatus_of_length (by exact hquiet) _ rfl

include hfree

theorem perform_send_quiet {r : TransportReply} {result : Option HostResult} {hung : Bool}
    (hreplies : s.host.replies = r :: more)
    (hend : (∃ bytes, r = .ok bytes ∧ result = some (.ok .done) ∧ hung = false) ∨
      (r = .error ∧ result = some (.error .ioWrite) ∧ hung = false) ∨ (r = .noReturn ∧ result = none ∧ hung = true)) :
    perform .send s = .next { s with host := { s.host with
      replies := more, calls := s.host.calls + 1, result := result, hung := hung
      wire := s.host.wire ++ [.write Config.busAddr (frameBytes s.block)] } } := by
  rw [perform, writeFrame_quiet hquiet, writeBytes, nextReply_of_cons hreplies, recordCall_of_cons hreplies]
  rcases hend with ⟨bytes, rfl, rfl, rfl⟩ | ⟨rfl, rfl, rfl⟩ | ⟨rfl, rfl, rfl⟩
  · simp [answered, endPart, giveResult, hfree]
  · simp [answered, endPart, giveResult, hfree]
  · simp [answered, endPart, hangHost]

omit hquiet

theorem perform_receive_of_failedRead {len : Nat} {r : TransportReply} {result : Option HostResult} {hung : Bool}
    (hreplies : s.host.replies = r :: more) (hend : FailedRead r len false result hung) :
    perform (.receive len) s = .next { s with host := { s.host with
      replies := more, calls := s.host.calls + 1, result := result, hung := hung
      wire := s.host.wire ++ [.read Config.busAddr len] } } := by
  rw [perform, receiveBytes, readBytes, nextReply_of_cons hreplies, recordCall_of_cons hreplies]
  rcases hend with ⟨rfl | ⟨bytes, rfl, hlen⟩, rfl, rfl⟩ | ⟨rfl, rfl, rfl⟩
  · simp [andThen, answered, endPart, giveResult, hfree]
  · simp [andThen, answered, endPart, giveResult, hfree, hlen]
  · simp [andThen, answered, endPart, hangHost]

end

/-- Settles O60: the step performs the part; where its transport call succeeds with bytes read, they fit in the buffer or
overflow it. -/
theorem partsOfAnExchangeByThemselves : Obligations.PartsOfAnExchangeByThemselves := by
  intro s rest more hquiet hfree
  refine ⟨fun r result hung hpending hreplies hend => ?_, fun ms hpending => step_quiet hquiet hfree hpending,
    fun bytes hpending hreplies => ?_, fun len r result hung hpending hreplies hend => ?_⟩
  · rw [step_quiet hquiet hfree hpending]
    exact perform_send_quiet (s := { s with host := { s.host with pending := rest } }) hquiet hfree hreplies hend
  · rw [step_quiet hquiet hfree hpending, perform]
    have htaken : ({ s with host := { s.host with pending := rest } } : State).host.resets = [] := hquiet
    rcases Nat.lt_or_ge 9 bytes.length with hlen | hlen
    · refine ⟨_, _, congrArg endPart (receiveBytes_of_overflow htaken hreplies hlen),
        execAll_rxLoad_of_overflow hlen s, rfl, ?_⟩
      rw [if_neg hlen.not_ge]
      rfl
    · refine ⟨_, _, congrArg endPart (receiveBytes_of_fits htaken hreplies hlen), execAll_rxLoad hlen s, rfl, ?_⟩
      rw [if_pos hlen]
      rfl
  · rw [step_quiet hquiet hfree hpending]
    exact perform_receive_of_failedRead (s := { s with host := { s.host with pending := rest } }) hfree hreplies hend

end Sys2Proof.Machine

/-! PROOFS. Rounding to binary32 (spec/43_measurement_decoder.md R121, R122): what `f32` answers, as a rational number. -/

namespace Sys2Proof.Machine

/-! ## Fractions and scaling -/

theorem ratOf_scaled (m e : Int) : ratOf (Frac.scaled m e) = m * 2 ^ e := by
  unfold Frac.scaled
  split
  case isTrue he =>
    obtain ⟨k, rfl⟩ := Int.eq_ofNat_of_zero_le he
    simp [ratOf]
  case isFalse he =>
    obtain ⟨k, rfl⟩ := Int.exists_eq_neg_ofNat (Int.le_of_not_le he)
    simp [ratOf, div_eq_mul_inv]

theorem ratOf_divNat (x : Frac) (d : Nat) : ratOf (x.divNat d) = ratOf x / d := by
  simp [ratOf, Frac.divNat, div_div]

theorem ratOf_addInt {x : Frac} (hx : 0 < x.den) (n : Int) : ratOf (x.addInt n) = ratOf x + n := by
  have hne : (x.den : ℚ) ≠ 0 := by positivity
  simp [ratOf, Frac.addInt, add_div, hne]

theorem ratOf_ofInt (n : Int) : ratOf (Frac.ofInt n) = n := by simp [ratOf, Frac.ofInt]

theorem abs_ratOf (x : Frac) : |ratOf x| = (x.num.natAbs : ℚ) / x.den := by
  simp [ratOf, abs_div, Nat.cast_natAbs]

theorem ratOf_neg_iff {x : Frac} (hx : 0 < x.den) : ratOf x < 0 ↔ x.num < 0 := by
  rw [ratOf, div_lt_iff₀ (by positivity), zero_mul, Int.cast_lt_zero]

theorem scaled_den_pos (m e : Int) : 0 < (Frac.scaled m e).den := by
  unfold Frac.scaled; split <;> simp

theorem binary32Value_den_pos (v : Word32) : 0 < (binary32Value v).den := by
  unfold binary32Value
  simp only
  split
  · simp
  · exact scaled_den_pos _ _

theorem scaleBy_den_pos (k : Int) (n : Nat) {d : Nat} (hd : 0 < d) : 0 < (scaleBy k n d).2 := by
  unfold scaleBy
  split
  · exact hd
  · positivity

theorem scaleBy_ratio (k : Int) (n d : Nat) :
    ((scaleBy k n d).1 : ℚ) / (scaleBy k n d).2 = n / d * 2 ^ k := by
  unfold scaleBy
  split
  case isTrue he =>
    obtain ⟨k, rfl⟩ := Int.eq_ofNat_of_zero_le he
    simp [div_mul_eq_mul_div]
  case isFalse he =>
    obtain ⟨k, rfl⟩ := Int.exists_eq_neg_ofNat (Int.le_of_not_le he)
    simp [← div_eq_mul_inv, div_div]

/-! ## The exponent -/

/-- The leading bits of `n` and `d` fix the exponent of `n / d` up to one. -/
theorem ratio_bounds_of_log2 {n d : Nat} (hn : n ≠ 0) (hd : d ≠ 0) :
    (2 : ℚ) ^ ((n.log2 : Int) - d.log2 - 1) ≤ n / d ∧ (n / d : ℚ) < 2 ^ ((n.log2 : Int) - d.log2 + 1) := by
  have hd0 : (0 : ℚ) < d := by positivity
  have hnlow : (2 : ℚ) ^ n.log2 ≤ n := mod_cast Nat.log2_self_le hn
  have hdlow : (2 : ℚ) ^ d.log2 ≤ d := mod_cast Nat.log2_self_le hd
  have hnhigh : (n : ℚ) < 2 ^ (n.log2 + 1) := mod_cast Nat.lt_log2_self
  have hdhigh : (d : ℚ) < 2 ^ (d.log2 + 1) := mod_cast Nat.lt_log2_self
  constructor
  · rw [le_div_iff₀ hd0]
    calc (2 : ℚ) ^ ((n.log2 : Int) - d.log2 - 1) * d
        ≤ 2 ^ ((n.log2 : Int) - d.log2 - 1) * 2 ^ (d.log2 + 1) := by gcongr
      _ = 2 ^ n.log2 := by rw [← zpow_natCast, ← zpow_natCast, ← zpow_add₀ two_ne_zero]; congr 1; push_cast; ring
      _ ≤ n := hnlow
  · rw [div_lt_iff₀ hd0]
    calc (n : ℚ) < 2 ^ (n.log2 + 1) := hnhigh
      _ = 2 ^ ((n.log2 : Int) - d.log2 + 1) * 2 ^ d.log2 := by
        rw [← zpow_natCast, ← zpow_natCast, ← zpow_add₀ two_ne_zero]; congr 1; push_cast; ring
      _ ≤ 2 ^ ((n.log2 : Int) - d.log2 + 1) * d := by gcongr

/-- Scaled by `2^-e`, numerator and denominator compare as `n / d` and `2^e` do. -/
theorem scaleBy_neg_lt_iff (e : Int) (n : Nat) {d : Nat} (hd : 0 < d) :
    (scaleBy (-e) n d).1 < (scaleBy (-e) n d).2 ↔ (n / d : ℚ) < 2 ^ e := by
  have hpos : (0 : ℚ) < (scaleBy (-e) n d).2 := mod_cast scaleBy_den_pos (-e) n hd
  rw [← Nat.cast_lt (α := ℚ), ← div_lt_one hpos, scaleBy_ratio, zpow_neg, ← div_eq_mul_inv,
    div_lt_one (by positivity)]

theorem exponentOf_spec {n d : Nat} (hn : n ≠ 0) (hd : 0 < d) :
    (2 : ℚ) ^ exponentOf n d ≤ n / d ∧ (n / d : ℚ) < 2 ^ (exponentOf n d + 1) := by
  obtain ⟨hlow, hhigh⟩ := ratio_bounds_of_log2 hn hd.ne'
  simp only [exponentOf, scaleBy_neg_lt_iff _ n hd]
  split
  case isTrue hlt => exact ⟨hlow, by rwa [Int.sub_add_cancel]⟩
  case isFalse hge => exact ⟨not_lt.mp hge, hhigh⟩

theorem exponentOf_eq {n d : Nat} (hn : n ≠ 0) (hd : 0 < d) {e : Int} (hlow : (2 : ℚ) ^ e ≤ n / d)
    (hhigh : (n / d : ℚ) < 2 ^ (e + 1)) : exponentOf n d = e := by
  obtain ⟨hle, hlt⟩ := exponentOf_spec hn hd
  have h1 := (zpow_lt_zpow_iff_right₀ (one_lt_two (α := ℚ))).mp (hlow.trans_lt hlt)
  have h2 := (zpow_lt_zpow_iff_right₀ (one_lt_two (α := ℚ))).mp (hle.trans_lt hhigh)
  omega

/-! ## The nearest integer and the nearest multiple of a power of two -/

theorem abs_nearestEven_sub_le (n : Nat) {d : Nat} (hd : 0 < d) : |(nearestEven n d : ℚ) - n / d| ≤ 1 / 2 := by
  have hd0 : (0 : ℚ) < d := mod_cast hd
  have hdiv : (n : ℚ) = d * (n / d : Nat) + (n % d : Nat) := mod_cast (Nat.div_add_mod n d).symm
  have hlt : ((n % d : Nat) : ℚ) < d := mod_cast Nat.mod_lt n hd
  have hratio : (n : ℚ) / d = (n / d : Nat) + (n % d : Nat) / d := by field_simp; linarith
  have hrem : (0 : ℚ) ≤ (n % d : Nat) / d := by positivity
  rw [hratio, abs_le]
  unfold nearestEven
  simp only
  split
  case isTrue hup =>
    have hhalf : (d : ℚ) ≤ 2 * (n % d : Nat) := mod_cast (by omega : d ≤ 2 * (n % d))
    have h1 : (1 / 2 : ℚ) ≤ (n % d : Nat) / d := by rw [le_div_iff₀ hd0]; linarith
    have h2 : ((n % d : Nat) : ℚ) / d ≤ 1 := by rw [div_le_one hd0]; exact hlt.le
    push_cast
    constructor <;> linarith
  case isFalse hdown =>
    have hhalf : 2 * ((n % d : Nat) : ℚ) ≤ d := mod_cast (by omega : 2 * (n % d) ≤ d)
    have h1 : ((n % d : Nat) : ℚ) / d ≤ 1 / 2 := by rw [div_le_iff₀ hd0]; linarith
    constructor <;> linarith

/-- `y` is a multiple of `2^k` nearest to `x`. -/
def NearestMultiple (k : Int) (x y : ℚ) : Prop := ∃ m : Int, y = m * 2 ^ k ∧ |m - x / 2 ^ k| ≤ 1 / 2

/-- The values of binary32 numbers: zero, or a significand of 24 bits scaled (R121). -/
def IsBinary32 (q : ℚ) : Prop :=
  q = 0 ∨ ∃ (m : Nat) (k : Int), 2 ^ 23 ≤ m ∧ m < 2 ^ 24 ∧ -149 ≤ k ∧ k ≤ 104 ∧ |q| = m * 2 ^ k

/-- Zero, or a magnitude that rounds to a normal binary32 number. -/
def InNormalRange (q : ℚ) : Prop := q = 0 ∨ (2 ^ (-126 : Int) ≤ |q| ∧ |q| < 2 ^ (127 : Int))

/-! ## Rounding to 24 bits -/

theorem roundTo_den_pos (prec : Nat) (x : Frac) : 0 < (roundTo prec x).den := by
  unfold roundTo
  simp only
  split
  · exact Nat.one_pos
  · exact scaled_den_pos _ _

theorem roundTo_nearestMultiple (prec : Nat) {x : Frac} (hden : 0 < x.den) {e : Int} (hlow : (2 : ℚ) ^ e ≤ |ratOf x|)
    (hhigh : |ratOf x| < 2 ^ (e + 1)) : NearestMultiple (e + 1 - prec) (ratOf x) (ratOf (roundTo prec x)) := by
  have hnum : x.num.natAbs ≠ 0 := by
    intro h0
    rw [abs_ratOf, h0, Nat.cast_zero, zero_div] at hlow
    exact hlow.not_gt (by positivity)
  rw [abs_ratOf] at hlow hhigh
  have hexp := exponentOf_eq hnum hden hlow hhigh
  have hnear := abs_nearestEven_sub_le (scaleBy (-(e + 1 - prec)) x.num.natAbs x.den).1
    (scaleBy_den_pos (-(e + 1 - prec)) x.num.natAbs hden)
  rw [scaleBy_ratio, zpow_neg, ← div_eq_mul_inv, ← abs_ratOf] at hnear
  unfold roundTo
  simp only [if_neg hnum, hexp, ratOf_scaled]
  refine ⟨_, rfl, ?_⟩
  split
  case isTrue hneg =>
    rw [abs_of_neg ((ratOf_neg_iff hden).mpr hneg), neg_div, sub_neg_eq_add, ← abs_neg] at hnear
    convert hnear using 2
    push_cast
    ring
  case isFalse hpos =>
    rwa [abs_of_nonneg (not_lt.mp ((ratOf_neg_iff hden).not.mpr hpos))] at hnear

/-- A magnitude with exponent `e`, counted in units of `2^(e-23)`. -/
theorem abs_div_zpow_bounds {x : ℚ} {e : Int} (hlow : (2 : ℚ) ^ e ≤ |x|) (hhigh : |x| < 2 ^ (e + 1)) :
    2 ^ 23 ≤ |x / 2 ^ (e - 23)| ∧ |x / 2 ^ (e - 23)| < 2 ^ 24 := by
  have hunit : (0 : ℚ) < 2 ^ (e - 23) := zpow_pos two_pos _
  rw [abs_div, abs_zpow, abs_two, le_div_iff₀ hunit, div_lt_iff₀ hunit, ← zpow_natCast, ← zpow_natCast,
    ← zpow_add₀ two_ne_zero, ← zpow_add₀ two_ne_zero, show ((23 : Nat) : Int) + (e - 23) = e by omega,
    show ((24 : Nat) : Int) + (e - 23) = e + 1 by omega]
  exact ⟨hlow, hhigh⟩

theorem natAbs_bounds_of_near {m : Int} {q : ℚ} (hm : |m - q| ≤ 1 / 2) (hlow : 2 ^ 23 ≤ |q|) (hhigh : |q| < 2 ^ 24) :
    2 ^ 23 ≤ m.natAbs ∧ m.natAbs ≤ 2 ^ 24 := by
  obtain ⟨habove, hbelow⟩ := abs_le.mp ((abs_abs_sub_abs_le (m : ℚ) q).trans hm)
  have hcast : |(m : ℚ)| = m.natAbs := by rw [Nat.cast_natAbs, Int.cast_abs]
  rw [hcast] at habove hbelow
  have hmlow : ((2 ^ 23 : Nat) : ℚ) < (m.natAbs + 1 : Nat) := by push_cast; linarith
  have hmhigh : (m.natAbs : ℚ) < (2 ^ 24 + 1 : Nat) := by push_cast; linarith
  exact ⟨Nat.lt_succ_iff.mp (mod_cast hmlow), Nat.lt_succ_iff.mp (mod_cast hmhigh)⟩

/-- The rounded significand has 24 bits, or is `2^24`, which is `2^23` one exponent up. -/
theorem NearestMultiple.isBinary32 {x y : ℚ} {e : Int} (h : NearestMultiple (e - 23) x y) (hlow : (2 : ℚ) ^ e ≤ |x|)
    (hhigh : |x| < 2 ^ (e + 1)) (hmin : -126 ≤ e) (hmax : e ≤ 126) : IsBinary32 y := by
  obtain ⟨m, rfl, hm⟩ := h
  obtain ⟨hxlow, hxhigh⟩ := abs_div_zpow_bounds hlow hhigh
  obtain ⟨hmlow, hmhigh⟩ := natAbs_bounds_of_near hm hxlow hxhigh
  have habs : |(m : ℚ) * 2 ^ (e - 23)| = m.natAbs * 2 ^ (e - 23) := by
    rw [abs_mul, abs_zpow, abs_two, Nat.cast_natAbs, Int.cast_abs]
  rcases Nat.lt_or_eq_of_le hmhigh with hlt | heq
  · exact .inr ⟨m.natAbs, e - 23, hmlow, hlt, by omega, by omega, habs⟩
  · refine .inr ⟨2 ^ 23, e - 22, le_rfl, by norm_num, by omega, by omega, ?_⟩
    rw [habs, heq, show e - 22 = e - 23 + 1 by ring, zpow_add_one₀ two_ne_zero]
    push_cast
    ring

/-! ## Bit patterns -/

/-- Sign, exponent field and fraction in their places (R121). -/
def binary32Bits (s : Bool) (e f : Nat) : Word32 :=
  (BitVec.ofBool s).setWidth 32 <<< 31 ||| BitVec.ofNat 32 e <<< 23 ||| BitVec.ofNat 32 f

section
variable (s : Bool) {e f : Nat} (he : e < 256) (hf : f < 2 ^ 23)
include he hf

theorem toNat_binary32Bits : (binary32Bits s e f).toNat = s.toNat * 2 ^ 31 + e * 2 ^ 23 + f := by
  have hs := s.toNat_le
  have hexp : (BitVec.ofNat 32 e <<< 23 : Word32).toNat = 2 ^ 23 * e := by simp [Nat.shiftLeft_eq]; omega
  have hsign : ((BitVec.ofBool s).setWidth 32 <<< 31 : Word32).toNat = 2 ^ 31 * s.toNat := by cases s <;> rfl
  have hfrac : (BitVec.ofNat 32 f).toNat = f := Nat.mod_eq_of_lt (by omega)
  rw [binary32Bits, BitVec.toNat_or, BitVec.toNat_or, hexp, hsign, hfrac, ← Nat.two_pow_add_eq_or_of_lt (by omega),
    show 2 ^ 31 * s.toNat + 2 ^ 23 * e = 2 ^ 23 * (2 ^ 8 * s.toNat + e) by ring, ← Nat.two_pow_add_eq_or_of_lt hf]
  ring

theorem exponentField_binary32Bits : ((binary32Bits s e f).extractLsb' 23 8).toNat = e := by
  have hs := s.toNat_le
  rw [BitVec.extractLsb'_toNat, toNat_binary32Bits s he hf, Nat.shiftRight_eq_div_pow]
  omega

theorem fraction_binary32Bits : ((binary32Bits s e f).extractLsb' 0 23).toNat = f := by
  rw [BitVec.extractLsb'_toNat, toNat_binary32Bits s he hf, Nat.shiftRight_eq_div_pow]
  omega

theorem sign_binary32Bits : (binary32Bits s e f).getLsbD 31 = s := by
  rw [BitVec.getLsbD, toNat_binary32Bits s he hf, Nat.testBit_eq_decide_div_mod_eq]
  cases s <;> simp <;> omega

end

theorem valueOf_of_exponent_zero {v : Word32} (h : (v.extractLsb' 23 8).toNat = 0) : valueOf v = 0 := by
  simp [valueOf, binary32Value, h, ratOf]

theorem valueOf_of_exponent_ne_zero {v : Word32} (h : (v.extractLsb' 23 8).toNat ≠ 0) : valueOf v =
    (if v.getLsbD 31 then -1 else 1) *
      ((2 ^ 23 + (v.extractLsb' 0 23).toNat : Nat) * 2 ^ ((v.extractLsb' 23 8).toNat - 150 : Int)) := by
  rw [valueOf, binary32Value]
  simp only [if_neg h, ratOf_scaled]
  split
  · rw [Int.cast_neg, Int.cast_natCast, neg_one_mul, neg_mul]
  · rw [Int.cast_natCast, one_mul]

/-! ## Packing -/

theorem packBinary32_zero {x : Frac} (hx : x.num = 0) : packBinary32 x = 0#32 := by simp [packBinary32, hx]

theorem f32_zero {x : Frac} (hx : x.num = 0) : f32 x = 0#32 := by simp [f32, roundTo, hx, packBinary32_zero]

section
variable {n d m : Nat} {k : Int} (hd : 0 < d) (hx : (n / d : ℚ) = m * 2 ^ k)
include hd hx

theorem exponentOf_of_significand (hn : n ≠ 0) (hlow : 2 ^ 23 ≤ m) (hhigh : m < 2 ^ 24) :
    exponentOf n d = k + 23 := by
  have hsplit (i : Nat) : (2 : ℚ) ^ (k + i) = (2 ^ i : Nat) * 2 ^ k := by
    rw [zpow_add₀ two_ne_zero, zpow_natCast, mul_comm, Nat.cast_pow, Nat.cast_two]
  apply exponentOf_eq hn hd
  · rw [hx, show k + 23 = k + (23 : Nat) from rfl, hsplit]
    gcongr
  · rw [hx, show k + 23 + 1 = k + (24 : Nat) by omega, hsplit]
    gcongr

/-- Scaled back by its exponent, a fraction divides to its significand. -/
theorem scaleBy_div_of_significand : (scaleBy (-k) n d).1 / (scaleBy (-k) n d).2 = m := by
  have hpos := scaleBy_den_pos (-k) n hd
  have hratio := scaleBy_ratio (-k) n d
  rw [hx, mul_assoc, ← zpow_add₀ two_ne_zero, add_neg_cancel, zpow_zero, mul_one, div_eq_iff (by positivity)] at hratio
  exact Nat.div_eq_of_eq_mul_left hpos (mod_cast hratio)

end

section
variable {x : Frac} (hden : 0 < x.den)
include hden

theorem num_eq_zero_of_ratOf (hx : ratOf x = 0) : x.num = 0 := by
  have hne : (x.den : ℚ) ≠ 0 := by positivity
  simpa [ratOf, hne] using hx

theorem packBinary32_eq_bits {m : Nat} {k : Int} (hlow : 2 ^ 23 ≤ m) (hhigh : m < 2 ^ 24)
    (hx : |ratOf x| = m * 2 ^ k) :
    packBinary32 x = binary32Bits (decide (x.num < 0)) (k + 150).toNat (m - 2 ^ 23) := by
  have hm : (0 : ℚ) < m := mod_cast (by omega : 0 < m)
  rw [abs_ratOf] at hx
  have hnum : x.num.natAbs ≠ 0 := by
    intro h0
    rw [h0, Nat.cast_zero, zero_div] at hx
    exact hx.not_lt (by positivity)
  unfold packBinary32
  simp only [if_neg hnum, exponentOf_of_significand hden hx hnum hlow hhigh, sub_add_cancel_right,
    scaleBy_div_of_significand hden hx, add_assoc]
  rfl

/-- Packing a binary32 number keeps its value. -/
theorem valueOf_packBinary32 (h : IsBinary32 (ratOf x)) : valueOf (packBinary32 x) = ratOf x := by
  rcases h with hzero | ⟨m, k, hlow, hhigh, hmin, hmax, hx⟩
  · rw [packBinary32_zero (num_eq_zero_of_ratOf hden hzero), hzero]
    exact valueOf_of_exponent_zero rfl
  have hfield : (k + 150).toNat < 256 := by omega
  have hfrac : m - 2 ^ 23 < 2 ^ 23 := by omega
  rw [packBinary32_eq_bits hden hlow hhigh hx,
    valueOf_of_exponent_ne_zero (by rw [exponentField_binary32Bits _ hfield hfrac]; omega),
    exponentField_binary32Bits _ hfield hfrac, fraction_binary32Bits _ hfield hfrac, sign_binary32Bits _ hfield hfrac,
    Nat.add_sub_cancel' hlow, Int.toNat_of_nonneg (by omega), add_sub_cancel_right, ← hx]
  rcases lt_or_ge (ratOf x) 0 with hneg | hpos
  · simp [(ratOf_neg_iff hden).mp hneg, abs_of_neg hneg]
  · simp [(ratOf_neg_iff hden).not.mp hpos.not_gt, abs_of_nonneg hpos]

/-! ## `f32` -/

/-- In the normal range, `f32` answers the nearest multiple of its exponent's last place. -/
theorem f32_nearestMultiple {e : Int} (hlow : (2 : ℚ) ^ e ≤ |ratOf x|) (hhigh : |ratOf x| < 2 ^ (e + 1))
    (hmin : -126 ≤ e) (hmax : e ≤ 126) : NearestMultiple (e - 23) (ratOf x) (valueOf (f32 x)) := by
  have hround := roundTo_nearestMultiple 24 hden hlow hhigh
  rw [show e + 1 - (24 : Nat) = e - 23 by push_cast; ring] at hround
  rw [f32, valueOf_packBinary32 (roundTo_den_pos 24 x) (hround.isBinary32 hlow hhigh hmin hmax)]
  exact hround

end

/-! ## The laws of rounding -/

theorem abs_multiple_sub (m k : Int) (x : ℚ) : |m * 2 ^ k - x| = |m - x / 2 ^ k| * 2 ^ k := by
  have hk : (0 : ℚ) < 2 ^ k := zpow_pos two_pos k
  have hfactor : m * 2 ^ k - x = (m - x / 2 ^ k) * 2 ^ k := by field_simp
  rw [hfactor, abs_mul, abs_of_pos hk]

/-- A fraction with an odd denominator is never half way between two integers. -/
theorem abs_sub_lt_half_of_odd {m : Int} {p d : Nat} (hd : Odd d) (h : |(m : ℚ) - p / d| ≤ 1 / 2) :
    |(m : ℚ) - p / d| < 1 / 2 := by
  have hd0 : (0 : ℚ) < d := mod_cast hd.pos
  have hcommon : |(m : ℚ) - p / d| = (|m * d - p| : Int) / d := by
    rw [sub_div' hd0.ne', abs_div, abs_of_pos hd0]; push_cast; rfl
  rw [hcommon, div_le_iff₀ hd0] at h
  rw [hcommon, div_lt_iff₀ hd0]
  have hle : 2 * |m * d - p| ≤ (d : Int) := by
    have : ((2 * |m * d - p| : Int) : ℚ) ≤ (d : Int) := by push_cast at h ⊢; linarith
    exact_mod_cast this
  have hlt : 2 * |m * d - p| < (d : Int) := by
    obtain ⟨c, hc⟩ := hd
    omega
  have : ((2 * |m * d - p| : Int) : ℚ) < (d : Int) := mod_cast hlt
  push_cast at this ⊢
  linarith

section
variable {k j : Int} {x y : ℚ} (h : NearestMultiple k x y)
include h

theorem NearestMultiple.abs_sub_le : |y - x| ≤ 2 ^ k / 2 := by
  obtain ⟨m, rfl, hm⟩ := h
  calc |(m : ℚ) * 2 ^ k - x| = |m - x / 2 ^ k| * 2 ^ k := abs_multiple_sub m k x
    _ ≤ 1 / 2 * 2 ^ k := by gcongr
    _ = 2 ^ k / 2 := by ring

/-- A multiple of a higher power of two is its own nearest multiple. -/
theorem NearestMultiple.eq_of_multiple (hk : k ≤ j) {n : Int} (hx : x = n * 2 ^ j) : y = x := by
  obtain ⟨m, rfl, hm⟩ := h
  obtain ⟨i, rfl⟩ := Int.le.dest hk
  have hscaled : x = (n * 2 ^ i : Int) * 2 ^ k := by
    rw [hx, zpow_add₀ two_ne_zero, zpow_natCast]; push_cast; ring
  rw [hscaled, mul_div_cancel_right₀ _ (zpow_pos two_pos k).ne'] at hm
  have hlt : |m - n * 2 ^ i| < 1 := by
    have : ((|m - n * 2 ^ i| : Int) : ℚ) < (1 : Int) := by push_cast at hm ⊢; linarith
    exact_mod_cast this
  rw [hscaled, sub_eq_zero.mp (Int.abs_lt_one_iff.mp hlt)]

/-- An odd denominator admits no tie, so the multiple is nearer than half of `2^k`. -/
theorem NearestMultiple.abs_sub_lt_of_odd (hk : k ≤ 0) {p d : Nat} (hd : Odd d) (hx : x = p / d) :
    |y - x| < 2 ^ k / 2 := by
  obtain ⟨m, rfl, hm⟩ := h
  obtain ⟨i, rfl⟩ := Int.exists_eq_neg_ofNat hk
  have hscaled : x / 2 ^ (-(i : Int)) = (p * 2 ^ i : Nat) / d := by
    rw [hx, zpow_neg, div_inv_eq_mul, zpow_natCast]; push_cast; ring
  rw [hscaled] at hm
  calc |(m : ℚ) * 2 ^ (-(i : Int)) - x| = |(m : ℚ) - (p * 2 ^ i : Nat) / d| * 2 ^ (-(i : Int)) := by
        rw [abs_multiple_sub, hscaled]
    _ < 1 / 2 * 2 ^ (-(i : Int)) := by gcongr; exact abs_sub_lt_half_of_odd hd hm
    _ = 2 ^ (-(i : Int)) / 2 := by ring

end

/-- Every magnitude below `2^(j+24)` is rounded at `2^j` or finer. -/
theorem f32_nearestMultiple_le {x : Frac} (hden : 0 < x.den) (hx : InNormalRange (ratOf x)) {j : Int}
    (hj : |ratOf x| < 2 ^ (j + 24)) : ∃ k ≤ j, NearestMultiple k (ratOf x) (valueOf (f32 x)) := by
  rcases hx with hzero | ⟨hmin, hmax⟩
  · refine ⟨j, le_rfl, 0, ?_, by simp [hzero]⟩
    rw [f32_zero (num_eq_zero_of_ratOf hden hzero), Int.cast_zero, zero_mul]
    exact valueOf_of_exponent_zero rfl
  · have hpos : 0 < |ratOf x| := (zpow_pos two_pos _).trans_le hmin
    obtain ⟨e, hlow, hhigh⟩ := exists_mem_Ico_zpow hpos (one_lt_two (α := ℚ))
    have hlt {a b : Int} (ha : (2 : ℚ) ^ a ≤ |ratOf x|) (hb : |ratOf x| < 2 ^ b) : a < b :=
      (zpow_lt_zpow_iff_right₀ (one_lt_two (α := ℚ))).mp (ha.trans_lt hb)
    have hej := hlt hlow hj
    have hemax := hlt hlow hmax
    have hemin := hlt hmin hhigh
    exact ⟨e - 23, by omega, f32_nearestMultiple hden hlow hhigh (by omega) (by omega)⟩

theorem zpow_two_le_abs_of_multiple {n j : Int} (hn : n ≠ 0) : (2 : ℚ) ^ j ≤ |(n : ℚ) * 2 ^ j| := by
  have hone : (1 : ℚ) ≤ |(n : ℚ)| := by exact_mod_cast Int.one_le_abs hn
  rw [abs_mul, abs_zpow, abs_two]
  exact le_mul_of_one_le_left (zpow_pos two_pos j).le hone

/-- `f32` is exact on integers of at most 24 bits, scaled (R122). -/
theorem valueOf_f32_of_multiple {x : Frac} (hden : 0 < x.den) {n j : Int} (hx : ratOf x = n * 2 ^ j)
    (hj : |ratOf x| < 2 ^ (j + 24)) (hmin : -126 ≤ j) (hmax : j ≤ 103) : valueOf (f32 x) = ratOf x := by
  have hrange : InNormalRange (ratOf x) := by
    rcases eq_or_ne n 0 with rfl | hn
    · exact .inl (by simpa using hx)
    · refine .inr ⟨?_, hj.trans_le (zpow_le_zpow_right₀ one_le_two (by omega))⟩
      rw [hx]
      exact (zpow_le_zpow_right₀ one_le_two hmin).trans (zpow_two_le_abs_of_multiple hn)
  obtain ⟨k, hk, hnear⟩ := f32_nearestMultiple_le hden hrange hj
  exact hnear.eq_of_multiple hk hx

end Sys2Proof.Machine

/-! PROOFS. The measurement decoder (spec/43_measurement_decoder.md R123 to R128): the conversions' error, order and range,
and `CVT.MEAS` with its encoding. -/

namespace Sys2Proof.Machine

/-! ## The quotient of both conversions -/

/-- The fraction both conversions round: the product of the raw word, rounded, over 65535 (R123, R124). -/
def measQuotient (c : Nat) (w : Word) : Frac := (binary32Value (f32 (Frac.ofInt (c * w.toNat)))).divNat 65535

theorem rhF32_eq (w : Word) : rhF32 w = f32 (measQuotient 100 w) := rfl

theorem measQuotient_den_pos (c : Nat) (w : Word) : 0 < (measQuotient c w).den :=
  Nat.mul_pos (binary32Value_den_pos _) (by decide)

section
variable {c : Nat} (hc : c ≤ 256) (w : Word)
include hc

/-- The product is exact (R122), so the quotient is the real formula's. -/
theorem ratOf_measQuotient : ratOf (measQuotient c w) = c * w.toNat / 65535 := by
  have hprod : c * w.toNat < 2 ^ 24 := by
    have := Nat.mul_le_mul hc (Nat.le_of_lt_succ w.isLt)
    omega
  have hvalue : ratOf (Frac.ofInt (c * w.toNat)) = (c * w.toNat : Nat) := by rw [ratOf_ofInt]; push_cast; rfl
  have hexact : valueOf (f32 (Frac.ofInt (c * w.toNat))) = (c * w.toNat : Nat) := by
    rw [valueOf_f32_of_multiple (j := 0) (n := (c * w.toNat : Nat)) Nat.one_pos, hvalue]
    · rw [hvalue]; simp
    · rw [hvalue, Nat.abs_cast]
      exact_mod_cast hprod
    · decide
    · decide
  rw [measQuotient, ratOf_divNat, ← valueOf, hexact]
  push_cast
  rfl

theorem inNormalRange_measQuotient : InNormalRange (ratOf (measQuotient c w)) := by
  rw [ratOf_measQuotient hc]
  rcases Nat.eq_zero_or_pos (c * w.toNat) with h0 | hpos
  · exact .inl (by rw [← Nat.cast_mul, h0]; simp)
  · have hlow : (1 : ℚ) ≤ (c * w.toNat : Nat) := mod_cast hpos
    have hhigh : ((c * w.toNat : Nat) : ℚ) ≤ (256 * 65535 : Nat) := mod_cast Nat.mul_le_mul hc (Nat.le_of_lt_succ w.isLt)
    rw [← Nat.cast_mul, InNormalRange, abs_of_nonneg (by positivity)]
    refine .inr ⟨?_, ?_⟩
    · rw [le_div_iff₀ (by norm_num)]; exact le_trans (by norm_num) hlow
    · rw [div_lt_iff₀ (by norm_num)]; exact lt_of_le_of_lt hhigh (by norm_num)

/-- 65535 is odd, so the rounded quotient is nearer than half a last place. -/
theorem abs_f32_measQuotient_sub_lt {j : Int} (hneg : j ≤ 0) (hj : (c * w.toNat / 65535 : ℚ) < 2 ^ (j + 24)) :
    |valueOf (f32 (measQuotient c w)) - c * w.toNat / 65535| < 2 ^ j / 2 := by
  have hvalue := ratOf_measQuotient hc w
  have habs : |ratOf (measQuotient c w)| < 2 ^ (j + 24) := by rwa [hvalue, abs_of_nonneg (by positivity)]
  obtain ⟨k, hk, hnear⟩ := f32_nearestMultiple_le (measQuotient_den_pos c w) (inNormalRange_measQuotient hc w) habs
  rw [← hvalue]
  have hfraction : ratOf (measQuotient c w) = (c * w.toNat : Nat) / (65535 : Nat) := by rw [hvalue]; push_cast; rfl
  calc _ < (2 : ℚ) ^ k / 2 := hnear.abs_sub_lt_of_odd (hk.trans hneg) (by decide) hfraction
    _ ≤ 2 ^ j / 2 := by gcongr; exact one_le_two

end

theorem word_toNat_le (w : Word) : (w.toNat : ℚ) ≤ 65535 := mod_cast Nat.le_of_lt_succ w.isLt

theorem abs_rhF32_sub_realRh_lt (w : Word) : |valueOf (rhF32 w) - realRh w| < 1 / 2 ^ 18 := by
  have h := abs_f32_measQuotient_sub_lt (c := 100) (by decide) w (j := -17) (by decide) (by
    have := word_toNat_le w
    norm_num
    linarith)
  rw [rhF32_eq, realRh]
  norm_num at h ⊢
  exact h

/-! ## The temperature's sum -/

/-- The rounded quotient less 45, which the last step of `temp_f32` rounds (R123). -/
def tempSum (w : Word) : Frac := (binary32Value (f32 (measQuotient 175 w))).addInt (-45)

theorem tempF32_eq (w : Word) : tempF32 w = f32 (tempSum w) := rfl

theorem tempSum_den_pos (w : Word) : 0 < (tempSum w).den := binary32Value_den_pos _

theorem ratOf_tempSum (w : Word) : ratOf (tempSum w) = valueOf (f32 (measQuotient 175 w)) - 45 := by
  rw [tempSum, ratOf_addInt (binary32Value_den_pos _), ← valueOf]
  push_cast
  ring

/-- A quotient from 32 to 256 has its last place, of 24 bits, at `2^-18`, `2^-17` or `2^-16`. -/
theorem exists_lastPlace_of_large {q : ℚ} (hlow : 32 ≤ q) (hhigh : q < 256) :
    ∃ j : Int, -18 ≤ j ∧ j ≤ -16 ∧ 2 ^ (j + 23) ≤ q ∧ q < 2 ^ (j + 24) := by
  rcases lt_or_ge q 64 with h64 | h64
  · exact ⟨-18, by norm_num [hlow, h64]⟩
  rcases lt_or_ge q 128 with h128 | h128
  · exact ⟨-17, by norm_num [h64, h128]⟩
  · exact ⟨-16, by norm_num [h128, hhigh]⟩

section
variable (w : Word)

/-- A quotient below 32 is rounded finely enough for the rounding of the sum beside it. -/
theorem abs_tempF32_sub_realTemp_lt_of_small (h : (175 * w.toNat / 65535 : ℚ) < 32) :
    |valueOf (tempF32 w) - realTemp w| < 1 / 2 ^ 17 := by
  have hpos : (0 : ℚ) ≤ 175 * w.toNat / 65535 := by positivity
  have hquot := abs_f32_measQuotient_sub_lt (c := 175) (by decide) w (j := -19) (by decide) (by norm_num; linarith)
  norm_num [abs_lt] at hquot
  obtain ⟨hqlow, hqhigh⟩ := hquot
  have hsum := ratOf_tempSum w
  have hneg : ratOf (tempSum w) < 0 := by linarith
  have hrange : InNormalRange (ratOf (tempSum w)) := by
    rw [InNormalRange, abs_of_neg hneg]
    refine .inr ⟨?_, ?_⟩
    · exact le_trans (b := 1) (by norm_num) (by linarith)
    · exact lt_trans (b := 64) (by linarith) (by norm_num)
  obtain ⟨k, hk, hnear⟩ := f32_nearestMultiple_le (tempSum_den_pos w) hrange (j := -18) (by
    rw [abs_of_neg hneg]; norm_num; linarith)
  have hround : |valueOf (tempF32 w) - ratOf (tempSum w)| ≤ 2 ^ (-18 : Int) / 2 :=
    hnear.abs_sub_le.trans (by gcongr; exact one_le_two)
  norm_num [abs_le] at hround
  obtain ⟨hrlow, hrhigh⟩ := hround
  rw [realTemp, abs_lt]
  constructor <;> norm_num <;> linarith

section
variable {j : Int} (hjmin : -18 ≤ j) (hjmax : j ≤ -16) (hlow : (2 : ℚ) ^ (j + 23) ≤ 175 * w.toNat / 65535)
  (hhigh : (175 * w.toNat / 65535 : ℚ) < 2 ^ (j + 24))
include hjmin hjmax hlow hhigh

/-- Taken from a quotient of 32 or more, 45 leaves no bit below the quotient's last place and no greater magnitude, so the
sum is exact. -/
theorem valueOf_tempF32_of_large : valueOf (tempF32 w) = ratOf (tempSum w) := by
  have hvalue : ratOf (measQuotient 175 w) = 175 * w.toNat / 65535 := ratOf_measQuotient (by decide) w
  have habs : |ratOf (measQuotient 175 w)| = 175 * w.toNat / 65535 := by rw [hvalue, abs_of_nonneg (by positivity)]
  obtain ⟨m, hm, -⟩ := f32_nearestMultiple (measQuotient_den_pos 175 w) (e := j + 23) (by rwa [habs])
    (by rwa [habs, add_assoc]) (by omega) (by omega)
  rw [add_sub_cancel_right] at hm
  obtain ⟨i, rfl⟩ := Int.exists_eq_neg_ofNat (show j ≤ 0 by omega)
  have hmultiple : ratOf (tempSum w) = (m - 45 * 2 ^ i : Int) * 2 ^ (-(i : Int)) := by
    rw [ratOf_tempSum, hm, zpow_neg, zpow_natCast]; push_cast; field_simp
  have hnear := abs_f32_measQuotient_sub_lt (c := 175) (by decide) w (j := -(i : Int)) (by omega) hhigh
  have hfine : (2 : ℚ) ^ (-(i : Int)) ≤ 1 := zpow_le_one_of_nonpos₀ one_le_two (by omega)
  have hcoarse : (2 : ℚ) ^ (6 : Int) ≤ 2 ^ (-(i : Int) + 24) := zpow_le_zpow_right₀ one_le_two (by omega)
  have hpos : (0 : ℚ) ≤ 175 * w.toNat / 65535 := by positivity
  rw [Nat.cast_ofNat, abs_lt] at hnear
  obtain ⟨hqlow, hqhigh⟩ := hnear
  norm_num at hcoarse
  have hsmall : |ratOf (tempSum w)| < 2 ^ (-(i : Int) + 24) := by
    rw [ratOf_tempSum, abs_lt]
    constructor <;> linarith
  rw [tempF32_eq, valueOf_f32_of_multiple (tempSum_den_pos w) hmultiple hsmall (by omega) (by omega)]

theorem abs_tempF32_sub_realTemp_lt_of_large : |valueOf (tempF32 w) - realTemp w| < 1 / 2 ^ 17 := by
  have hnear := abs_f32_measQuotient_sub_lt (c := 175) (by decide) w (j := j) (by omega) hhigh
  have hplace : (2 : ℚ) ^ j ≤ 2 ^ (-16 : Int) := zpow_le_zpow_right₀ one_le_two hjmax
  rw [valueOf_tempF32_of_large w hjmin hjmax hlow hhigh, ratOf_tempSum, realTemp]
  calc _ = |valueOf (f32 (measQuotient 175 w)) - (175 : Nat) * w.toNat / 65535| := by congr 1; push_cast; ring
    _ < 2 ^ j / 2 := hnear
    _ ≤ 2 ^ (-16 : Int) / 2 := by gcongr
    _ = 1 / 2 ^ 17 := by norm_num

end

/-- The error of the quotient, of which a last place is at most `2^-16`, dominates. -/
theorem abs_tempF32_sub_realTemp_lt : |valueOf (tempF32 w) - realTemp w| < 1 / 2 ^ 17 := by
  rcases lt_or_ge (175 * w.toNat / 65535 : ℚ) 32 with hsmall | hlarge
  · exact abs_tempF32_sub_realTemp_lt_of_small w hsmall
  · have hmax : (175 * w.toNat / 65535 : ℚ) < 256 := by linarith [word_toNat_le w]
    obtain ⟨j, hjmin, hjmax, hlow, hhigh⟩ := exists_lastPlace_of_large hlarge hmax
    exact abs_tempF32_sub_realTemp_lt_of_large w hjmin hjmax hlow hhigh

end

/-- Settles O31: humidity is rounded once; the temperature's sum is exact, or small enough to add little. -/
theorem conversionsAreWithinTheErrorBound : Obligations.ConversionsAreWithinTheErrorBound :=
  fun w => ⟨abs_tempF32_sub_realTemp_lt w, abs_rhF32_sub_realRh_lt w⟩

/-- Settles O32: from one raw word to the next both formulas grow by more than twice the error bound. -/
theorem conversionsAreStrictlyIncreasing : Obligations.ConversionsAreStrictlyIncreasing := by
  intro a b hab
  have hstep : (a.toNat : ℚ) + 1 ≤ b.toNat := mod_cast hab
  have ⟨hta, hra⟩ := conversionsAreWithinTheErrorBound a
  have ⟨htb, hrb⟩ := conversionsAreWithinTheErrorBound b
  rw [realTemp, abs_lt] at hta htb
  rw [realRh, abs_lt] at hra hrb
  constructor <;> linarith

/-- Settles O33: the model computes each vector. -/
theorem conversionVectors : Obligations.ConversionVectors := by
  unfold Obligations.ConversionVectors
  decide

/-! ## Range and special values (R127) -/

theorem conversions_le {a b : Word} (hab : a.toNat ≤ b.toNat) :
    valueOf (tempF32 a) ≤ valueOf (tempF32 b) ∧ valueOf (rhF32 a) ≤ valueOf (rhF32 b) := by
  rcases Nat.lt_or_eq_of_le hab with hlt | heq
  · obtain ⟨ht, hr⟩ := conversionsAreStrictlyIncreasing a b hlt
    exact ⟨ht.le, hr.le⟩
  · rw [BitVec.eq_of_toNat_eq heq]
    exact ⟨le_rfl, le_rfl⟩

/-- The values of the two ends of the table of R127. -/
theorem conversions_at_ends : valueOf (tempF32 0x0000#16) = -45 ∧ valueOf (tempF32 0xFFFF#16) = 130 ∧
    valueOf (rhF32 0x0000#16) = 0 ∧ valueOf (rhF32 0xFFFF#16) = 100 := by
  obtain ⟨ht0, ht1, hr0, hr1, -⟩ := conversionVectors
  rw [ht0, ht1, hr0, hr1]
  refine ⟨?_, ?_, ?_, ?_⟩
  · have h : binary32Value 0xC2340000#32 = ⟨-11796480, 262144⟩ := by decide
    norm_num [valueOf, ratOf, h]
  · have h : binary32Value 0x43020000#32 = ⟨8519680, 65536⟩ := by decide
    norm_num [valueOf, ratOf, h]
  · exact valueOf_of_exponent_zero rfl
  · have h : binary32Value 0x42C80000#32 = ⟨13107200, 131072⟩ := by decide
    norm_num [valueOf, ratOf, h]

theorem conversions_mem_range (w : Word) : (-45 ≤ valueOf (tempF32 w) ∧ valueOf (tempF32 w) ≤ 130) ∧
    0 ≤ valueOf (rhF32 w) ∧ valueOf (rhF32 w) ≤ 100 := by
  obtain ⟨htlow, hrlow⟩ := conversions_le (a := 0x0000#16) (b := w) (Nat.zero_le _)
  obtain ⟨hthigh, hrhigh⟩ := conversions_le (a := w) (b := 0xFFFF#16) (Nat.le_of_lt_succ w.isLt)
  obtain ⟨ht0, ht1, hr0, hr1⟩ := conversions_at_ends
  rw [ht0] at htlow
  rw [ht1] at hthigh
  rw [hr0] at hrlow
  rw [hr1] at hrhigh
  exact ⟨⟨htlow, hthigh⟩, hrlow, hrhigh⟩

/-- `175 t` misses `45 * 65535` by 25 at least, which the error bound does not make up. -/
theorem valueOf_tempF32_ne_zero (w : Word) : valueOf (tempF32 w) ≠ 0 := by
  intro hzero
  have herror := abs_tempF32_sub_realTemp_lt w
  rw [hzero, realTemp, abs_lt] at herror
  obtain ⟨hlow, hhigh⟩ := herror
  rcases (by omega : w.toNat ≤ 16851 ∨ 16852 ≤ w.toNat) with h | h
  · have : (w.toNat : ℚ) ≤ 16851 := mod_cast h
    linarith
  · have : (16852 : ℚ) ≤ w.toNat := mod_cast h
    linarith

/-- The only raw word whose humidity is zero is 0. -/
theorem valueOf_rhF32_pos {w : Word} (hw : w ≠ 0#16) : 0 < valueOf (rhF32 w) := by
  have hpos : (0#16).toNat < w.toNat := Nat.pos_of_ne_zero fun h => hw (BitVec.eq_of_toNat_eq h)
  obtain ⟨-, hlt⟩ := conversionsAreStrictlyIncreasing 0#16 w hpos
  obtain ⟨-, -, hzero, -⟩ := conversions_at_ends
  rwa [hzero] at hlt

/-- A pattern of a value that is not zero and below `2^128` is that of a normal number. -/
theorem exponentField_of_normal {v : Word32} (hne : valueOf v ≠ 0) (hlt : |valueOf v| < 2 ^ 128) :
    1 ≤ (v.extractLsb' 23 8).toNat ∧ (v.extractLsb' 23 8).toNat ≤ 254 := by
  have hexp : (v.extractLsb' 23 8).toNat ≠ 0 := fun h => hne (valueOf_of_exponent_zero h)
  refine ⟨Nat.one_le_iff_ne_zero.mpr hexp, ?_⟩
  by_contra hbig
  have hmax : (v.extractLsb' 23 8).toNat = 255 := by have := (v.extractLsb' 23 8).isLt; omega
  rw [valueOf_of_exponent_ne_zero hexp, hmax, abs_mul] at hlt
  have hsign : |(if v.getLsbD 31 then -1 else 1 : ℚ)| = 1 := by split <;> simp
  rw [hsign, one_mul, abs_of_nonneg (by positivity)] at hlt
  have hsignificand : (2 ^ 23 : ℚ) ≤ (2 ^ 23 + (v.extractLsb' 0 23).toNat : Nat) := mod_cast Nat.le_add_right _ _
  norm_num at hlt hsignificand
  linarith

theorem sign_of_pos {v : Word32} (hpos : 0 < valueOf v) : v.getLsbD 31 = false := by
  by_contra hsign
  rw [Bool.not_eq_false] at hsign
  have hexp : (v.extractLsb' 23 8).toNat ≠ 0 := fun h => hpos.ne' (valueOf_of_exponent_zero h)
  rw [valueOf_of_exponent_ne_zero hexp, if_pos hsign, neg_one_mul] at hpos
  exact hpos.not_ge (neg_nonpos.mpr (by positivity))

/-- Settles O34: the conversions increase from end to end of the range; no pattern but +0.0 of a value within it has the
exponent field 0 or 255. -/
theorem conversionsAreNormalNumbersInRange : Obligations.ConversionsAreNormalNumbersInRange := by
  intro w
  obtain ⟨⟨htlow, hthigh⟩, hrlow, hrhigh⟩ := conversions_mem_range w
  obtain ⟨htmin, htmax⟩ := exponentField_of_normal (valueOf_tempF32_ne_zero w)
    (lt_of_le_of_lt (abs_le.mpr ⟨by linarith, hthigh⟩) (by norm_num))
  refine ⟨htlow, hthigh, hrlow, hrhigh, htmin, htmax, ?_, fun hw => ?_⟩
  · rintro rfl
    obtain ⟨-, -, hzero, -⟩ := conversionVectors
    exact hzero
  · have hpos := valueOf_rhF32_pos hw
    obtain ⟨hrmin, hrmax⟩ := exponentField_of_normal hpos.ne'
      (lt_of_le_of_lt (abs_le.mpr ⟨by linarith, hrhigh⟩) (by norm_num))
    exact ⟨hrmin, hrmax, sign_of_pos hpos⟩

/-! ## `CVT.MEAS` (R128) -/

theorem allWordsValid_eq_false_iff (b : Block) : allWordsValid b = false ↔ ∃ k : Fin 3, b.wv[k] = false := by
  simp [allWordsValid, Fin.exists_fin_succ, -Bool.and_eq_false_imp, Bool.and_eq_false_iff, or_assoc]

/-- Settles O30: the valid bits decide how `opCvtMeas` ends; the word is the encoding, and every bit of it is fixed. -/
theorem cvtMeasConvertsThreeValidWords : Obligations.CvtMeasConvertsThreeValidWords := by
  refine ⟨fun s h0 h1 h2 => ?_, fun s hinvalid => ?_, decodeWord_of_encode (i := .cvtMeas) rfl, fun v hopc hne => ?_⟩
  · have hvalid : allWordsValid s.block = true := by simp [allWordsValid, h0, h1, h2]
    exact congrArg Host.Outcome.next (operate_of_done (opCvtMeas_of_valid hvalid))
  · have hnot := (allWordsValid_eq_false_iff s.block).mpr hinvalid
    exact congrArg Host.Outcome.next (operate_of_raised (opCvtMeas_of_invalid hnot))
  · refine illegalWord_of_ne_pattern (r := opRows[12]) (by simp) hopc ?_
    rwa [show v &&& opRows[12].mask = v from BitVec.and_allOnes]

end Sys2Proof.Machine

/-! PROOFS. The system operations and illegal operation words (spec/44_system_ops.md): what ends an operation may have,
and what keeps `STICKY`. -/

namespace Sys2Proof.Machine

/-! ## Words of a row and words of none (R63, R64, R138) -/

theorem isOperation_build : ∀ r ∈ opRows, ∀ (a : Byte) (imm : Word), isOperation (r.build a imm) = true := by
  simp [opRows, isOperation]

theorem decodeWord_of_row {v : Word32} (hrow : ∃ r ∈ operationMap, v &&& r.2 = r.1) :
    ∃ i, decodeWord v = .ok i ∧ isOperation i = true := by
  obtain ⟨_, hmem, hmatch⟩ := hrow
  rw [operationMap_eq_opRows] at hmem
  obtain ⟨r, hr, rfl⟩ := List.mem_map.mp hmem
  exact ⟨_, (decodeWord_eq_ok_iff v _).mpr ⟨r, hr, hmatch, rfl⟩, isOperation_build r hr _ _⟩

/-- Settles O10: without a row the decoder finds no instruction, and what a row builds is an operation. -/
theorem wordsOfNoRowAreIllegalAndOthersDecode : Obligations.WordsOfNoRowAreIllegalAndOthersDecode :=
  fun _ => ⟨illegalWord_of_no_row, decodeWord_of_row⟩

/-- Where a row fixes every bit, its one word is the only legal one with its `OPC`. -/
theorem illegalWord_of_ne_only_word {r : OpRow} (hr : r ∈ opRows) (hmask : r.mask = BitVec.allOnes 32) {v : Word32}
    (hopc : opcOf v = r.opc) (hne : v ≠ r.pattern) : IllegalWord v := by
  refine illegalWord_of_ne_pattern hr hopc ?_
  rwa [hmask, BitVec.and_allOnes]

/-- Settles O12: the meaning is `opNop`, the word the encoding, and every bit of it is fixed. -/
theorem nopWritesOnlyErr : Obligations.NopWritesOnlyErr :=
  ⟨fun _ => rfl, decodeWord_of_encode (i := .nop) rfl,
    fun _ => illegalWord_of_ne_only_word (r := opRows[0]) (by simp) rfl⟩

/-! ## How an operation ends (R137) -/

/-- The ends R137 allows an operation from `b`: done with `STICKY` not written, or raised, with `b` as it was unless the
error is `CRC_MISMATCH`. -/
inductive CommonTail (b : Block) : OpEnd → Prop where
  | done {b' : Block} (hsticky : b'.sticky = b.sticky) : CommonTail b (.done b')
  | mismatch (b' : Block) : CommonTail b (.raised .crcMismatch b')
  | raised (e : BlockError) : CommonTail b (.raised e b)

section
variable {b : Block} {e : OpEnd}

theorem CommonTail.sticky_finish (h : CommonTail b e) (hb : b.sticky = true) : (finish e).sticky = true := by
  cases h with
  | done hsticky => exact hsticky.trans hb
  | mismatch b' => rfl
  | raised e => rfl

theorem CommonTail.finish_eq (h : CommonTail b e) (hok : (finish e).err ≠ 0#3) (hmismatch : (finish e).err ≠ 1#3) :
    finish e = { b with err := (finish e).err, sticky := true } := by
  cases h with
  | done _ => exact absurd rfl hok
  | mismatch b' => exact absurd rfl hmismatch
  | raised e => rfl

end

theorem commonTail_opEncArg (v : Word) (b : Block) : CommonTail b (opEncArg v b) := by
  rcases opEncArg_cases v b with ⟨_, e⟩ | ⟨_, e⟩ <;> rw [e]
  · exact .done rfl
  · exact .raised .seq

theorem commonTail_opEncCat (i : Byte) (b : Block) : CommonTail b (opEncCat i b) := by
  rcases opEncCat_cases i b with ⟨_, _, e⟩ | ⟨_, e⟩ <;> rw [e]
  · exact .done rfl
  · exact .raised .range

theorem commonTail_opRxByte (v : Byte) (b : Block) : CommonTail b (opRxByte v b) := by
  rcases opRxByte_cases v b with ⟨_, e⟩ | ⟨_, e⟩ <;> rw [e]
  · exact .done rfl
  · exact .raised .length

theorem commonTail_opDecWord (k : Byte) (b : Block) : CommonTail b (opDecWord k b) := by
  rcases opDecWord_cases k b with ⟨_, e⟩ | ⟨_, _, e⟩ | ⟨_, _, _, e⟩ | ⟨_, _, _, e⟩ <;> rw [e]
  · exact .raised .range
  · exact .raised .length
  · exact .mismatch _
  · exact .done rfl

theorem commonTail_opDecAll (n : Byte) (b : Block) : CommonTail b (opDecAll n b) := by
  rcases opDecAll_cases n b with ⟨_, e⟩ | ⟨_, _, e⟩ | ⟨_, _, _, e⟩ | ⟨_, _, _, e⟩ <;> rw [e]
  · exact .raised .range
  · exact .raised .length
  · exact .mismatch _
  · rw [storeGroups_frame]
    exact .done rfl

theorem commonTail_opCvtMeas (b : Block) : CommonTail b (opCvtMeas b) := by
  rcases opCvtMeas_cases b with ⟨_, e⟩ | ⟨_, e⟩ <;> rw [e]
  · exact .done rfl
  · exact .raised .seq

/-- Every operation but `CLR`, which writes `STICKY`, ends as R137 allows. -/
theorem exec_operation_commonTail {i : Instr} (hop : isOperation i = true) (hclr : i ≠ .clr) :
    ∃ op : Block → OpEnd, (∀ b, CommonTail b (op b)) ∧ ∀ s, exec i s = .next (operate op s) := by
  cases i <;> cases hop
  case nop => exact ⟨opNop, fun _ => .done rfl, fun _ => rfl⟩
  case clr => exact absurd rfl hclr
  case crcInit => exact ⟨opCrcInit, fun _ => .done rfl, fun _ => rfl⟩
  case crcByte v => exact ⟨opCrcByte v, fun _ => .done rfl, fun _ => rfl⟩
  case crcWord v => exact ⟨opCrcWord v, fun _ => .done rfl, fun _ => rfl⟩
  case encCmd v => exact ⟨opEncCmd v, fun _ => .done rfl, fun _ => rfl⟩
  case encArg v => exact ⟨opEncArg v, commonTail_opEncArg v, fun _ => rfl⟩
  case encCat k => exact ⟨opEncCat k, commonTail_opEncCat k, fun _ => rfl⟩
  case rxClr => exact ⟨opRxClr, fun _ => .done rfl, fun _ => rfl⟩
  case rxByte v => exact ⟨opRxByte v, commonTail_opRxByte v, fun _ => rfl⟩
  case decWord k => exact ⟨opDecWord k, commonTail_opDecWord k, fun _ => rfl⟩
  case decAll n => exact ⟨opDecAll n, commonTail_opDecAll n, fun _ => rfl⟩
  case cvtMeas => exact ⟨opCvtMeas, commonTail_opCvtMeas, fun _ => rfl⟩

theorem exec_clr (s : State) : exec .clr s = .next { s with block := Block.reset } := rfl

/-- Settles O13: the meaning is `opClr`, the word the encoding, every bit of it is fixed, and the other operations end
as R137 allows. -/
theorem clrReturnsTheBlockToReset : Obligations.ClrReturnsTheBlockToReset := by
  refine ⟨exec_clr, decodeWord_of_encode (i := .clr) rfl,
    fun _ => illegalWord_of_ne_only_word (r := opRows[1]) (by simp) rfl, fun i s t hop hclr h hsticky => ?_⟩
  obtain ⟨op, htail, hexec⟩ := exec_operation_commonTail hop hclr
  rw [hexec] at h
  cases h
  exact (htail s.block).sticky_finish hsticky

/-- Settles O38: `CLR` ends with `OK`, and the other operations end as R137 allows. -/
theorem errorsOtherThanMismatchChangeNothingElse : Obligations.ErrorsOtherThanMismatchChangeNothingElse := by
  intro i s t hop h hok hmismatch
  by_cases hclr : i = .clr
  · rw [hclr, exec_clr] at h
    cases h
    exact absurd rfl hok
  · obtain ⟨op, htail, hexec⟩ := exec_operation_commonTail hop hclr
    rw [hexec] at h
    cases h
    exact congrArg (State.mk · s.host) ((htail s.block).finish_eq hok hmismatch)

/-! ## What every exchange keeps: the walk through its parts, once for all predicates of the block and the resets listed
to come (R160, R171) -/

/-- The predicate speaks of the block and the listed resets alone, and the moment before an access and the operations
the host writes in an exchange keep it. -/
structure KeptInExchanges (P : State → Prop) : Prop where
  congr : ∀ {s t : State}, P s → t.block = s.block → t.host.resets = s.host.resets → P t
  access : ∀ {s : State}, P s → P (accessPoint s)
  encCat : ∀ (i : Byte) {s : State}, P s → P (operate (opEncCat i) s)
  encArg : ∀ (v : Word) {s : State}, P s → P (operate (opEncArg v) s)
  rxClr : ∀ {s : State}, P s → P (operate opRxClr s)
  rxByte : ∀ (v : Byte) {s : State}, P s → P (operate (opRxByte v) s)
  decAll : ∀ (n : Byte) {s : State}, P s → P (operate (opDecAll n) s)
  cvtMeas : ∀ {s : State}, P s → P (operate opCvtMeas s)

theorem after_andThen {P : State → Prop} {α β : Type} {x : Exchange α} {f : α → State → Exchange β}
    (hx : P (endState x)) (hf : ∀ v {s}, P s → P (endState (f v s))) : P (endState (andThen x f)) := by
  cases x with
  | ok v s => exact hf v hx
  | error e s => exact hx
  | noReturn s => exact hx

theorem writeBytes_resets (bytes : List Byte) (s : State) :
    (endState (writeBytes bytes s)).host.resets = s.host.resets := by
  rcases writeBytes_cases bytes s with ⟨_, _, e⟩ | ⟨_, e⟩ | ⟨_, e⟩ <;> rw [e] <;> rfl

theorem readBytes_resets (len : Nat) (s : State) : (endState (readBytes len s)).host.resets = s.host.resets := by
  rcases readBytes_cases len s with ⟨_, _, _, e⟩ | ⟨e, _⟩ | ⟨_, e⟩ <;> rw [e] <;> rfl

section
variable {P : State → Prop} (hP : KeptInExchanges P) {s : State}
include hP

/-! The parts of an exchange (R171). -/

theorem KeptInExchanges.after_readTx (is : List Nat) (h : P s) : P (readTx is s).2 := by
  induction is generalizing s with
  | nil => exact h
  | cons i rest ih => exact ih (hP.access h)

theorem KeptInExchanges.after_checkStatus (valid : Block → Bool) (h : P s) : P (endState (checkStatus valid s)) := by
  rcases checkStatus_cases valid s with ⟨_, _, e⟩ | ⟨_, e⟩ | ⟨_, _, e⟩ <;> rw [e] <;> exact hP.access h

theorem KeptInExchanges.after_writeBytes (bytes : List Byte) (h : P s) : P (endState (writeBytes bytes s)) :=
  hP.congr h (writeBytes_block bytes s) (writeBytes_resets bytes s)

theorem KeptInExchanges.after_readFrame (h : P s) : P (readFrame s).2 := hP.after_readTx _ (hP.access h)

theorem KeptInExchanges.after_writeFrame (h : P s) : P (endState (writeFrame s)) :=
  hP.after_writeBytes _ (hP.after_readFrame h)

theorem KeptInExchanges.after_sendFrame (h : P s) : P (endState (sendFrame s)) :=
  after_andThen (hP.after_checkStatus _ (hP.after_readFrame h)) fun _ => hP.after_writeBytes _

theorem KeptInExchanges.after_sleepFor (ms : Word32) (h : P s) : P (sleepFor ms s) := hP.congr h rfl rfl

theorem KeptInExchanges.after_sendOnly (c : WireCmd) (h : P s) : P (endState (sendOnly c s)) := by
  refine after_andThen (hP.after_sendFrame h) fun _ s' h' => ?_
  rw [sleepDelay_eq]
  exact hP.after_sleepFor _ h'

theorem KeptInExchanges.after_readBytes (len : Nat) (h : P s) : P (endState (readBytes len s)) :=
  hP.congr h (readBytes_block len s) (readBytes_resets len s)

theorem KeptInExchanges.after_encodeCommand (c : WireCmd) (h : P s) : P (encodeCommand c s) :=
  hP.encCat _ (hP.access h)

theorem KeptInExchanges.after_encodeWithArgument (c : WireCmd) (arg : Word) (h : P s) :
    P (encodeWithArgument c arg s) :=
  hP.encArg arg (hP.access (hP.after_encodeCommand c h))

theorem KeptInExchanges.after_encodeAndSend (c : WireCmd) (h : P s) : P (endState (sendOnly c (encodeCommand c s))) :=
  hP.after_sendOnly c (hP.after_encodeCommand c h)

theorem KeptInExchanges.after_loadBytes (bytes : List Byte) (h : P s) : P (loadBytes bytes s) := by
  induction bytes generalizing s with
  | nil => exact h
  | cons v rest ih => exact ih (hP.rxByte v (hP.access h))

theorem KeptInExchanges.after_loadResponse (bytes : List Byte) (h : P s) : P (loadResponse bytes s) :=
  hP.after_loadBytes bytes (hP.rxClr (hP.access h))

theorem KeptInExchanges.after_receiveBytes (len : Nat) (h : P s) : P (endState (receiveBytes len s)) :=
  after_andThen (hP.after_readBytes len h) fun bytes _ h' => hP.after_checkStatus _ (hP.after_loadResponse bytes h')

theorem KeptInExchanges.after_exchangeWithResponse (c : WireCmd) (h : P s) :
    P (endState (exchangeWithResponse c s)) := by
  refine after_andThen (after_andThen (hP.after_encodeAndSend c h) fun _ _ => hP.after_readBytes _) fun bytes _ h' => ?_
  exact hP.after_checkStatus _ (hP.decAll _ (hP.access (hP.after_loadResponse bytes h')))

/-! The host's calls (R176 to R185). -/

theorem KeptInExchanges.after_noteMode (m : Option SensorMode) (shot owed : Bool) (h : P s) :
    P (noteMode m shot owed s) := hP.congr h (noteMode_block m shot owed s) (noteMode_resets m shot owed s)

theorem KeptInExchanges.after_leadingTo {α : Type} {x : Exchange α} (m : SensorMode) (keeps : Bool)
    (h : P (endState x)) : P (endState (leadingTo m keeps x)) := by
  cases x <;> exact hP.after_noteMode _ _ _ h

theorem KeptInExchanges.after_plainBody (c : WireCmd) (h : P s) : P (endState (plainBody c s)) :=
  after_andThen (hP.after_encodeAndSend c h) fun _ _ => id

theorem KeptInExchanges.after_argumentBody (c : WireCmd) (arg : Word) (h : P s) : P (endState (argumentBody c arg s)) :=
  after_andThen (hP.after_sendOnly c (hP.after_encodeWithArgument c arg h)) fun _ _ => id

theorem KeptInExchanges.after_responseBody (c : WireCmd) (valid : Block → Bool) {view : State → HostValue × State}
    (hview : ∀ {s}, P s → P (view s).2) (h : P s) : P (endState (responseBody c valid view s)) :=
  after_andThen (hP.after_exchangeWithResponse c h) fun _ _ h' =>
    after_andThen (hP.after_checkStatus valid (hview h')) fun _ _ => id

theorem KeptInExchanges.after_measurementBody (h : P s) : P (endState (measurementBody s)) :=
  hP.after_responseBody _ _ (fun h' => hP.access (hP.access (hP.access (hP.cvtMeas (hP.access h'))))) h

theorem KeptInExchanges.after_singleShotBody (h : P s) : P (endState (singleShotBody s)) := by
  refine after_andThen (hP.after_leadingTo _ _ (hP.after_encodeAndSend _ h)) fun _ s1 h1 => ?_
  refine after_andThen ?_ fun _ s2 h2 => hP.after_measurementBody (hP.after_noteMode _ _ _ h2)
  have hwake := hP.after_encodeAndSend .wakeup h1
  revert hwake
  cases sendOnly .wakeup (encodeCommand .wakeup s1) <;> exact id

theorem KeptInExchanges.after_hostCall (c : WireCmd) {body : State → Exchange HostValue}
    (hbody : P (endState (body s))) (h : P s) : P (hostCall c body s) := by
  unfold hostCall
  split
  · revert hbody
    cases body s <;> exact fun h' => hP.congr h' rfl rfl
  · exact hP.congr h rfl rfl

/-- Every wire command keeps the predicate. -/
theorem KeptInExchanges.after_exec_wire {i : Instr} {c : WireCmd} (hwire : wireOf i = some c) {t : State}
    (hexec : exec i s = .next t) (h : P s) : P t := by
  cases i <;> cases hwire <;> cases hexec
  case reinit | persistSettings => exact hP.after_hostCall _ (hP.after_plainBody _ h) h
  case wakeup | startPeriodicMeasurement | stopPeriodicMeasurement =>
    exact hP.after_hostCall _ (hP.after_leadingTo _ _ (hP.after_plainBody _ h)) h
  case setSensorAltitude | setAmbientPressure | setAscEnabled | setAscTarget =>
    exact hP.after_hostCall _ (hP.after_argumentBody _ _ h) h
  case getSerialNumber =>
    exact hP.after_hostCall _ (hP.after_responseBody _ _ (fun h' => hP.access (hP.access (hP.access h'))) h) h
  case readMeasurement => exact hP.after_hostCall _ (hP.after_measurementBody h) h
  case singleShotMeasurement => exact hP.after_hostCall _ (hP.after_singleShotBody h) h
  all_goals exact hP.after_hostCall _ (hP.after_responseBody _ _ hP.access h) h

/-- An exchange's part that the host takes by itself keeps the predicate where the part does. -/
theorem KeptInExchanges.after_endPart {x : Exchange Unit} {t : State} (hend : endPart x = .next t)
    (h : P (endState x)) : P t := by
  cases x <;> cases hend <;> exact hP.congr h rfl rfl

end

/-! ## `STICKY` (R136, R147, R160) -/

/-- `STICKY` is set, and no reset event is listed to come. -/
structure StickySet (s : State) : Prop where
  sticky : s.block.sticky = true
  noReset : true ∉ s.host.resets

theorem StickySet.noReset_tail {s : State} (h : StickySet s) : true ∉ s.host.resets.tail :=
  fun hmem => h.noReset (List.mem_of_mem_tail hmem)

theorem StickySet.not_resetDue {s : State} (h : StickySet s) : resetDue s.host = false := by
  have hno := h.noReset
  unfold resetDue
  cases hr : s.host.resets with
  | nil => rfl
  | cons due rest =>
    rw [hr] at hno
    cases due with
    | false => rfl
    | true => exact absurd List.mem_cons_self hno

theorem StickySet.after_accessPoint {s : State} (h : StickySet s) : StickySet (accessPoint s) := by
  rw [accessPoint_of_not_resetDue h.not_resetDue]
  exact ⟨h.sticky, h.noReset_tail⟩

theorem StickySet.after_operate {s : State} {op : Block → OpEnd} (htail : ∀ b, CommonTail b (op b))
    (h : StickySet s) : StickySet (operate op s) := ⟨(htail s.block).sticky_finish h.sticky, h.noReset⟩

theorem keptInExchanges_stickySet : KeptInExchanges StickySet where
  congr h hblock hresets := ⟨hblock ▸ h.sticky, hresets ▸ h.noReset⟩
  access := StickySet.after_accessPoint
  encCat i _ := StickySet.after_operate (commonTail_opEncCat i)
  encArg v _ := StickySet.after_operate (commonTail_opEncArg v)
  rxClr := StickySet.after_operate fun _ => .done rfl
  rxByte v _ := StickySet.after_operate (commonTail_opRxByte v)
  decAll n _ := StickySet.after_operate (commonTail_opDecAll n)
  cvtMeas := StickySet.after_operate commonTail_opCvtMeas

theorem isOperation_of_wireOf_eq_none {i : Instr} (h : wireOf i = none) : isOperation i = true := by
  cases i <;> cases h <;> rfl

/-- `CLR` is the only instruction that clears `STICKY`. -/
theorem StickySet.after_exec {i : Instr} (hclr : i ≠ .clr) {s t : State} (hexec : exec i s = .next t)
    (h : StickySet s) : StickySet t := by
  cases hwire : wireOf i with
  | none =>
    obtain ⟨op, htail, hop⟩ := exec_operation_commonTail (isOperation_of_wireOf_eq_none hwire) hclr
    rw [hop] at hexec
    cases hexec
    exact h.after_operate htail
  | some c => exact keptInExchanges_stickySet.after_exec_wire hwire hexec h

/-- Its encoding is the only word that decodes to `CLR` (R136). -/
theorem StickySet.after_performWord {v : Word32} (hclr : v ≠ 0x01000000#32) {s t : State}
    (hperform : performWord v s = .next t) (h : StickySet s) : StickySet t := by
  unfold performWord at hperform
  split at hperform
  next i hdecode =>
    refine h.after_exec ?_ hperform
    rintro rfl
    have hword := encodeOfDecodeIsTheEncoding (.opw v) .clr hdecode
    injection hword with hword
    exact hclr hword.symm
  · cases hperform
    exact h.after_operate fun _ => .raised .illegalOp

/-- No frame decodes to `CLR`, whose encoding is an operation word. -/
theorem StickySet.after_performFrame {bytes : List Byte} {s t : State} (hperform : performFrame bytes s = .next t)
    (h : StickySet s) : StickySet t := by
  unfold performFrame at hperform
  split at hperform
  next i hdecode =>
    refine h.after_exec ?_ hperform
    rintro rfl
    cases encode_of_decodeFrame hdecode
  · cases hperform

theorem StickySet.after_perform {a : HostAction} (hclr : a ≠ .regWrite 0#6 0x01000000#32) {s t : State}
    (hperform : perform a s = .next t) (h : StickySet s) : StickySet t := by
  cases a with
  | regRead n =>
    simp only [perform, performRead] at hperform
    split at hperform <;> cases hperform
    exact keptInExchanges_stickySet.congr h rfl rfl
  | regWrite n v =>
    simp only [perform, performWrite] at hperform
    split at hperform
    next hn =>
      subst hn
      exact h.after_performWord (fun hv => hclr (hv ▸ rfl)) hperform
    · cases hperform
  | command bytes => exact h.after_performFrame hperform
  | api call => exact h.after_exec (by cases call <;> exact Instr.noConfusion) hperform
  | send => exact keptInExchanges_stickySet.after_endPart hperform (keptInExchanges_stickySet.after_writeFrame h)
  | sleep ms =>
    cases hperform
    exact keptInExchanges_stickySet.after_sleepFor ms h
  | receive len =>
    exact keptInExchanges_stickySet.after_endPart hperform (keptInExchanges_stickySet.after_receiveBytes len h)
  | otherHost => cases hperform

/-- Unless the host's next action is to write `CLR`, a step keeps `STICKY` set, and lists no new reset. -/
theorem StickySet.after_step {s t : State} (hclr : ∀ rest, s.host.pending ≠ .regWrite 0#6 0x01000000#32 :: rest)
    (hstep : step s = .next t) (h : StickySet s) : StickySet t := by
  rcases step_cases s with ⟨_, e⟩ | ⟨_, _, e⟩ | ⟨a, rest, _, _, hpending, e⟩ <;> rw [e] at hstep
  · cases hstep
    exact h.after_accessPoint
  · cases hstep
    exact h.after_accessPoint
  · have htaken : StickySet { s with host := { s.host with pending := rest, resets := s.host.resets.tail } } :=
      ⟨h.sticky, h.noReset_tail⟩
    exact htaken.after_perform (fun ha => hclr rest (ha ▸ hpending)) hstep

/-- Settles O37: with no reset listed and another action than the write of `CLR`, the step keeps `STICKY` set. -/
theorem stickyIsClearedOnlyByClrOrReset : Obligations.StickyIsClearedOnlyByClrOrReset := by
  intro s t hstep hset hcleared
  by_contra hneither
  obtain ⟨hresets, hpending⟩ := not_or.mp hneither
  have hkept : StickySet t := StickySet.after_step (not_exists.mp hpending) hstep ⟨hset, hresets⟩
  simp [hkept.sticky] at hcleared

end Sys2Proof.Machine

/-! PROOFS. How a call ends without a value (spec/60_exceptions.md R152, R173): the parts of an exchange
where no reset falls, the first write of every call, and the writes of a single shot. -/

namespace Sys2Proof.Machine

/-! ## Accesses before which no reset event comes (R160) -/

/-- The state `n` accesses later, where no reset came before any of them: the list of resets to come is shorter. -/
def later (n : Nat) (s : State) : State := { s with host := { s.host with resets := s.host.resets.drop n } }

/-- No reset event is listed before any of the next `n` accesses. -/
def Calm (n : Nat) (s : State) : Prop := true ∉ s.host.resets.take n

theorem later_later (m n : Nat) (s : State) : later n (later m s) = later (m + n) s := by
  simp [later, List.drop_drop]

theorem calm_add {m n : Nat} {s : State} : Calm (m + n) s ↔ Calm m s ∧ Calm n (later m s) := by
  simp [Calm, later, List.take_add]

theorem accessPoint_of_calm {s : State} (hcalm : Calm 1 s) : accessPoint s = later 1 s := by
  have hdue : resetDue s.host = false := by
    unfold resetDue
    unfold Calm at hcalm
    cases hr : s.host.resets <;> simp_all
  rw [accessPoint_of_not_resetDue hdue, later, List.drop_one]

section
variable {s : State} (hquiet : s.host.resets = []) (n : Nat)
include hquiet

theorem calm_of_quiet : Calm n s := by simp [Calm, hquiet]

theorem later_of_quiet : later n s = s := by
  rw [later, hquiet, List.drop_nil, ← hquiet]

end

/-- A good `STATUS` is one access more. -/
theorem checkStatus_of_calm {s : State} (hcalm : Calm 1 s) {valid : Block → Bool} (herr : s.block.err = 0#3)
    (hvalid : valid s.block = true) : checkStatus valid s = .ok () (later 1 s) := by
  simp [checkStatus, accessPoint_of_calm hcalm, later, herr, hvalid, errorCode]

/-! ## The frame on its way to the transport (R171 steps 1 and 2) -/

/-- The registers `TXB` in order are the whole buffer. -/
theorem map_txAt (b : Block) : [0, 1, 2, 3, 4].map (txAt b) = b.txb.toList := by
  apply List.ext_getElem <;> simp [txAt]
  intro i hi
  interval_cases i <;> simp

/-- A command is encoded, this is its frame, and the host finds nothing wrong in `STATUS`. -/
structure FrameStands (frame : List Byte) (b : Block) : Prop where
  bytes : frameBytes b = frame
  length : frame.length = b.txlen.toNat
  catv : b.catv = true
  err : b.err = 0#3

/-- The block after `ENC.CAT` and `ENC.ARG` of a command with argument (R103, R104). -/
def selectedWithArgument (c : WireCmd) (arg : Word) (b : Block) : Block :=
  { selected c b with
    txb := #v[msbOf (catalogRow c).opcode, lsbOf (catalogRow c).opcode, msbOf arg, lsbOf arg, crcOfWord arg]
    txlen := 5#3, crc := crcOfWord arg }

theorem frameStands_selected (c : WireCmd) (b : Block) : FrameStands (be16 (catalogRow c).opcode) (selected c b) :=
  ⟨rfl, rfl, rfl, rfl⟩

theorem frameStands_selectedWithArgument (c : WireCmd) (arg : Word) (b : Block) :
    FrameStands (cmdArgFrame (catalogRow c).opcode arg) (selectedWithArgument c arg b) := ⟨rfl, rfl, rfl, rfl⟩

theorem encodeCommand_of_calm {s : State} (hcalm : Calm 1 s) (c : WireCmd) :
    encodeCommand c s = { later 1 s with block := selected c s.block } := by
  rw [encodeCommand, hostOperate, accessPoint_of_calm hcalm, operate, opEncCat_index]
  rfl

theorem encodeWithArgument_of_calm {s : State} (hcalm : Calm 2 s) (c : WireCmd) (arg : Word) :
    encodeWithArgument c arg s = { later 2 s with block := selectedWithArgument c arg s.block } := by
  obtain ⟨hcat, harg⟩ := (calm_add (m := 1) (n := 1)).mp hcalm
  have harg' : Calm 1 { later 1 s with block := selected c s.block } := harg
  rw [encodeWithArgument, encodeCommand_of_calm hcat, hostOperate, accessPoint_of_calm harg', operate,
    opEncArg_of_frame (by rfl)]
  simp [later, selectedWithArgument, selected, putArgument]

theorem readTx_of_calm (is : List Nat) {s : State} (hcalm : Calm is.length s) :
    readTx is s = (is.map (txAt s.block), later is.length s) := by
  induction is generalizing s with
  | nil => rfl
  | cons i rest ih =>
    rw [List.length_cons, Nat.add_comm] at hcalm
    obtain ⟨hfirst, hrest⟩ := calm_add.mp hcalm
    rw [readTx, accessPoint_of_calm hfirst, ih hrest, later_later, List.length_cons, Nat.add_comm]
    rfl

section
variable {frame : List Byte} {s : State} (hframe : FrameStands frame s.block)
include hframe

theorem readFrame_of_calm (hcalm : Calm (1 + frame.length) s) : readFrame s = (frame, later (1 + frame.length) s) := by
  obtain ⟨hlen, hregs⟩ := calm_add.mp hcalm
  have hle : frame.length ≤ 5 := by
    rw [← hframe.bytes, frameBytes]
    simp
  have hcount : ([0, 1, 2, 3, 4].take frame.length).length = frame.length := by simpa using hle
  have hmap : ([0, 1, 2, 3, 4].take frame.length).map (txAt s.block) = frame := by
    rw [List.map_take, map_txAt, hframe.length]
    exact hframe.bytes
  have htx := readTx_of_calm ([0, 1, 2, 3, 4].take frame.length) (s := later 1 s) (by rwa [hcount])
  rw [hcount, later_later] at htx
  rw [readFrame, accessPoint_of_calm hlen]
  exact (congrArg (readTx · (later 1 s)) (by rw [hframe.length]; rfl)).trans (htx.trans (Prod.ext hmap rfl))

/-- The host reads the frame and `STATUS`, and hands the frame to the transport. -/
theorem sendFrame_of_calm (hcalm : Calm (2 + frame.length) s) :
    sendFrame s = writeBytes frame (later (2 + frame.length) s) := by
  have hn : 2 + frame.length = 1 + frame.length + 1 := by omega
  rw [hn] at hcalm ⊢
  obtain ⟨hread, hstatus⟩ := calm_add.mp hcalm
  rw [sendFrame, readFrame_of_calm hframe hread, checkStatus_of_calm hstatus hframe.err hframe.catv, later_later]
  rfl

end

/-! ## A part of a call that ends without a value (R152, R173) -/

/-- A part of a call that ends with an error, or, with `none`, never (93 U6). -/
def stopped {α : Type} : Option HostError → State → Exchange α
  | some e, s => .error e s
  | none, s => .noReturn s

/-- The state a call leaves that ends with an error, or never. -/
def halted (e : Option HostError) (u : State) : State :=
  { u with host := { u.host with result := e.map .error, hung := u.host.hung || e.isNone } }

section
variable (e : Option HostError) (u : State)

@[simp] theorem halted_block : (halted e u).block = u.block := rfl
@[simp] theorem halted_result : (halted e u).host.result = e.map .error := rfl
@[simp] theorem halted_wire : (halted e u).host.wire = u.host.wire := rfl
@[simp] theorem halted_replies : (halted e u).host.replies = u.host.replies := rfl

/-- A call that never returns leaves the host stuck. -/
theorem halted_hung (h : e = none) : (halted e u).host.hung = true := by simp [halted, h]

/-- The first failing step ends the call. -/
theorem andThen_stopped {α β : Type} (f : α → State → Exchange β) : andThen (stopped e u) f = stopped e u := by
  cases e <;> rfl

theorem leadingTo_stopped {α : Type} (m : SensorMode) (keeps : Bool) :
    leadingTo m keeps (stopped e u : Exchange α) = stopped e (noteMode none false true u) := by
  cases e <;> rfl

theorem asWakeupError_stopped {α : Type} :
    asWakeupError (stopped e u : Exchange α) = stopped (e.map fun _ => .wakeup) u := by
  cases e <;> rfl

end

section
variable {c : WireCmd} {body : State → Exchange HostValue} {s u : State} {e : Option HostError}
  (hbody : body s = stopped e u)
include hbody

theorem hostCall_of_stopped (hallowed : sessionAllows c s.host = true) : hostCall c body s = halted e u := by
  rw [hostCall, if_pos hallowed, hbody]
  cases e <;> simp [stopped, halted, giveResult, hangHost]

theorem hostCall_eq_of_stopped :
    hostCall c body s = if sessionAllows c s.host then halted e u else turnedAway s := by
  split
  next hallowed => exact hostCall_of_stopped hbody hallowed
  next hforbidden => exact if_neg hforbidden

/-- What holds of the state such a call leaves holds after the instruction, where the session allows the call. -/
theorem exec_of_stopped {i : Instr} (hexec : ∀ s, exec i s = .next (hostCall c body s)) {P : State → Prop}
    (hP : P (halted e u)) : ∃ t, exec i s = .next t ∧ (sessionAllows c s.host = true → P t) :=
  ⟨_, hexec s, fun hallowed => by rwa [hostCall_of_stopped hbody hallowed]⟩

end

/-- What the state after an instruction satisfies may be said more weakly. -/
theorem exec_imp {i : Instr} {c : WireCmd} {s : State} {P Q : State → Prop}
    (h : ∃ t, exec i s = .next t ∧ (sessionAllows c s.host = true → P t)) (hPQ : ∀ t, P t → Q t) :
    ∃ t, exec i s = .next t ∧ (sessionAllows c s.host = true → Q t) :=
  h.imp fun t ht => ht.imp_right fun hP hallowed => hPQ t (hP hallowed)

/-! ## The transport's outcomes inside a call (R152, R170) -/

/-- A `write` fails, or never returns, and the part of the call ends so. -/
inductive FailedWrite : TransportReply → Option HostError → Prop where
  | error : FailedWrite .error (some .ioWrite)
  | noReturn : FailedWrite .noReturn none

theorem writeBytes_of_ok {s : State} {b : List Byte} {more : List TransportReply}
    (hreplies : s.host.replies = .ok b :: more) (frame : List Byte) :
    writeBytes frame s = .ok () (answered (.write Config.busAddr frame) more s) := by
  simp only [writeBytes, nextReply_of_cons hreplies, recordCall_of_cons hreplies]

section
variable {s : State} {r : TransportReply} {more : List TransportReply} (hreplies : s.host.replies = r :: more)
include hreplies

theorem writeBytes_of_failed {e : Option HostError} (hfail : FailedWrite r e) (frame : List Byte) :
    writeBytes frame s = stopped e (answered (.write Config.busAddr frame) more s) := by
  cases hfail <;> simp only [writeBytes, nextReply_of_cons hreplies, recordCall_of_cons hreplies, stopped]

/-- A `read` that gives no bytes stops the call with the result R152 gives it. -/
theorem readBytes_of_failed {len : Nat} {hungBefore : Bool} {result : Option HostResult} {hung : Bool}
    (hfail : FailedRead r len hungBefore result hung) : ∃ e : Option HostError, result = e.map .error ∧
      hung = (hungBefore || e.isNone) ∧
      readBytes len s = stopped e (answered (.read Config.busAddr len) more s) := by
  rw [readBytes, nextReply_of_cons hreplies, recordCall_of_cons hreplies]
  rcases hfail with ⟨rfl | ⟨bytes, rfl, hlen⟩, rfl, rfl⟩ | ⟨rfl, rfl, rfl⟩
  · exact ⟨some .ioRead, rfl, by simp, rfl⟩
  · exact ⟨some .ioRead, rfl, by simp, if_neg hlen⟩
  · exact ⟨none, rfl, by simp, rfl⟩

end

/-- After a command's exchange up to its delay, with these outcomes left. -/
def sent (c : WireCmd) (more : List TransportReply) (s : State) : State :=
  sleepFor (catalogRow c).delayMs
    (answered (.write Config.busAddr (be16 (catalogRow c).opcode)) more { s with block := selected c s.block })

section
variable {s : State} (hcalm : Calm 5 s) {c : WireCmd} {more : List TransportReply}
include hcalm

/-- Five accesses: `ENC.CAT`, `TXLEN`, the two bytes of the frame, `STATUS`. -/
theorem sendFrame_encodeCommand_of_calm : sendFrame (encodeCommand c s) =
    writeBytes (be16 (catalogRow c).opcode) { later 5 s with block := selected c s.block } := by
  obtain ⟨hcat, hsend⟩ := (calm_add (m := 1) (n := 4)).mp hcalm
  rw [encodeCommand_of_calm hcat, sendFrame_of_calm (frameStands_selected c s.block) (by exact hsend)]
  simp [later, be16]

theorem encodeAndSend_of_ok {b : List Byte} (hreplies : s.host.replies = .ok b :: more) :
    sendOnly c (encodeCommand c s) = .ok () (sent c more (later 5 s)) := by
  rw [sendOnly, sendFrame_encodeCommand_of_calm hcalm, writeBytes_of_ok (by exact hreplies), andThen, sleepDelay_eq]
  rfl

theorem encodeAndSend_of_failed {r : TransportReply} {e : Option HostError} (hreplies : s.host.replies = r :: more)
    (hfail : FailedWrite r e) : sendOnly c (encodeCommand c s) = stopped e
      (answered (.write Config.busAddr (be16 (catalogRow c).opcode)) more
      { later 5 s with block := selected c s.block }) := by
  rw [sendOnly, sendFrame_encodeCommand_of_calm hcalm, writeBytes_of_failed (by exact hreplies) hfail, andThen_stopped]

end

/-! ## The first write of every call -/

/-- Where the first exchange's write stops, the call stops there; a call that leads to a mode no longer knows it. -/
def SendsFirst (c : WireCmd) (enc : State → State) (body : State → Exchange HostValue) : Prop :=
  ∀ s e u, sendOnly c (enc s) = stopped e u →
    body s = stopped e u ∨ body s = stopped e (noteMode none false true u)

theorem plainBody_sendsFirst (c : WireCmd) : SendsFirst c (encodeCommand c) (plainBody c) := fun s e u h =>
  .inl (by rw [plainBody, h, andThen_stopped])

theorem argumentBody_sendsFirst (c : WireCmd) (arg : Word) :
    SendsFirst c (encodeWithArgument c arg) (argumentBody c arg) := fun s e u h =>
  .inl (by rw [argumentBody, h, andThen_stopped])

theorem responseBody_of_stoppedSend {c : WireCmd} {s u : State} {e : Option HostError}
    (hsend : sendOnly c (encodeCommand c s) = stopped e u) (valid : Block → Bool)
    (view : State → HostValue × State) : responseBody c valid view s = stopped e u := by
  simp only [responseBody, exchangeWithResponse, sendAndRead, hsend, andThen_stopped]

theorem responseBody_sendsFirst (c : WireCmd) (valid : Block → Bool) (view : State → HostValue × State) :
    SendsFirst c (encodeCommand c) (responseBody c valid view) := fun _ _ _ h =>
  .inl (responseBody_of_stoppedSend h valid view)

theorem plainBody_leadingTo_sendsFirst (c : WireCmd) (m : SensorMode) (keeps : Bool) :
    SendsFirst c (encodeCommand c) fun s => leadingTo m keeps (plainBody c s) := fun s e u h =>
  .inr (by simp only [plainBody, h, andThen_stopped, leadingTo_stopped])

theorem singleShotBody_sendsFirst : SendsFirst .singleShotMeasurement (encodeCommand .singleShotMeasurement)
    singleShotBody := fun s e u h =>
  .inr (by simp only [singleShotBody, h, leadingTo_stopped, andThen_stopped])

/-- The encoding leaves this frame standing, and the host as it was, where no reset is listed. -/
def Encodes (frame : List Byte) (enc : State → State) : Prop :=
  ∀ s : State, s.host.resets = [] → FrameStands frame (enc s).block ∧ (enc s).host = s.host

theorem encodes_encodeCommand (c : WireCmd) : Encodes (be16 (catalogRow c).opcode) (encodeCommand c) :=
  fun s hquiet => by
    rw [encodeCommand_of_calm (calm_of_quiet hquiet 1), later_of_quiet hquiet]
    exact ⟨frameStands_selected c s.block, rfl⟩

theorem encodes_encodeWithArgument (c : WireCmd) (arg : Word) :
    Encodes (cmdArgFrame (catalogRow c).opcode arg) (encodeWithArgument c arg) := fun s hquiet => by
  rw [encodeWithArgument_of_calm (calm_of_quiet hquiet 2), later_of_quiet hquiet]
  exact ⟨frameStands_selectedWithArgument c arg s.block, rfl⟩

/-- A wire instruction is a call that first sends its encoding (R170). -/
theorem exec_sendsFirst {i : Instr} {c : WireCmd} {frame : List Byte} (hwire : wireOf i = some c)
    (hwf : WellFormed i = true) (hframe : encode i = .frame frame) : ∃ enc body,
      (∀ s, exec i s = .next (hostCall c body s)) ∧ SendsFirst c enc body ∧ Encodes frame enc := by
  cases i <;> cases hwire <;> cases hframe
  case reinit | persistSettings => exact ⟨_, _, fun _ => rfl, plainBody_sendsFirst _, encodes_encodeCommand _⟩
  case wakeup | startPeriodicMeasurement | stopPeriodicMeasurement =>
    exact ⟨_, _, fun _ => rfl, plainBody_leadingTo_sendsFirst _ _ _, encodes_encodeCommand _⟩
  case setSensorAltitude | setAmbientPressure | setAscEnabled | setAscTarget =>
    obtain rfl := eq_of_beq hwf
    exact ⟨_, _, fun _ => rfl, argumentBody_sendsFirst _ _, encodes_encodeWithArgument _ _⟩
  case singleShotMeasurement => exact ⟨_, _, fun _ => rfl, singleShotBody_sendsFirst, encodes_encodeCommand _⟩
  all_goals exact ⟨_, _, fun _ => rfl, responseBody_sendsFirst _ _ _, encodes_encodeCommand _⟩

/-- A call whose first write fails or never returns has made that one transport call. -/
theorem exec_of_failedFirstWrite {s : State} {i : Instr} {c : WireCmd} {frame : List Byte} {r : TransportReply}
    {e : Option HostError} {rest : List TransportReply} (hquiet : s.host.resets = []) (hwire : wireOf i = some c)
    (hwf : WellFormed i = true) (hframe : encode i = .frame frame) (hfail : FailedWrite r e)
    (hreplies : s.host.replies = r :: rest) : ∃ t, exec i s = .next t ∧ (sessionAllows c s.host = true →
      t.host.result = e.map .error ∧ (e = none → t.host.hung = true) ∧
      t.host.wire = s.host.wire ++ [.write Config.busAddr frame] ∧ t.host.replies = rest) := by
  obtain ⟨enc, body, hexec, hfirst, henc⟩ := exec_sendsFirst hwire hwf hframe
  obtain ⟨hstands, hhost⟩ := henc s hquiet
  have hquiet' : (enc s).host.resets = [] := by rw [hhost, hquiet]
  have hsend : sendOnly c (enc s) = stopped e (answered (.write Config.busAddr frame) rest (enc s)) := by
    rw [sendOnly, sendFrame_of_calm hstands (calm_of_quiet hquiet' _), later_of_quiet hquiet',
      writeBytes_of_failed (by rw [hhost, hreplies]) hfail, andThen_stopped]
  rcases hfirst s e _ hsend with hbody | hbody <;>
    refine exec_of_stopped hbody hexec ⟨rfl, halted_hung _ _, ?_⟩ <;> simp [answered, hhost]

/-! ## The single shot up to its read (R179) -/

/-- The calls of a single shot are those of three exchanges, each by its catalog row. -/
theorem singleShotCalls_eq : singleShotCalls =
    [.write Config.busAddr (be16 (catalogRow .singleShotMeasurement).opcode),
      .sleep (catalogRow .singleShotMeasurement).delayMs,
      .write Config.busAddr (be16 (catalogRow .wakeup).opcode), .sleep (catalogRow .wakeup).delayMs,
      .write Config.busAddr (be16 (catalogRow .readMeasurement).opcode), .sleep (catalogRow .readMeasurement).delayMs,
      .read Config.busAddr (responseLength .readMeasurement)] := rfl

/-- After a single shot's trigger, with these outcomes left. -/
def triggered (more : List TransportReply) (s : State) : State :=
  noteMode (some .singleShotPending) false s.host.stopOwed (sent .singleShotMeasurement more s)

/-- After a single shot's trigger and wake-up, with these outcomes left. -/
def woken (more : List TransportReply) (s : State) : State :=
  { block := selected .wakeup s.block
    host := { s.host with
      wire := s.host.wire ++ singleShotCalls.take 4, replies := more, calls := s.host.calls + 2
      mode := modeAfter .idle s.host
      shotDone := if Config.strictSession then true else s.host.shotDone } }

theorem noteMode_sent_triggered (more more' : List TransportReply) (s : State) :
    noteMode (some .idle) true (sent .wakeup more (triggered more' s)).host.stopOwed
      (sent .wakeup more (triggered more' s)) = woken more s := by
  cases hstrict : Config.strictSession <;>
    simp [noteMode, triggered, woken, sent, sleepFor, answered, selected, modeAfter, hstrict, singleShotCalls_eq]

section
variable {s : State} (hquiet : s.host.resets = []) {b1 : List Byte} {more : List TransportReply}
include hquiet

theorem triggered_quiet : (triggered more s).host.resets = [] := (noteMode_resets _ _ _ _).trans hquiet

theorem singleShotBody_of_triggered (hreplies : s.host.replies = .ok b1 :: more) : singleShotBody s =
    andThen (asWakeupError (sendOnly .wakeup (encodeCommand .wakeup (triggered more s))))
      fun _ s2 => measurementBody (noteMode (some .idle) true s2.host.stopOwed s2) := by
  rw [singleShotBody, encodeAndSend_of_ok (calm_of_quiet hquiet 5) hreplies, later_of_quiet hquiet]
  rfl

theorem singleShotBody_of_woken {b2 : List Byte} (hreplies : s.host.replies = .ok b1 :: .ok b2 :: more) :
    singleShotBody s = measurementBody (woken more s) := by
  have hreplies' : (triggered (.ok b2 :: more) s).host.replies = .ok b2 :: more := noteMode_replies _ _ _ _
  rw [singleShotBody_of_triggered hquiet hreplies,
    encodeAndSend_of_ok (calm_of_quiet (triggered_quiet hquiet) 5) hreplies',
    later_of_quiet (triggered_quiet hquiet), asWakeupError, andThen, noteMode_sent_triggered]

theorem singleShotBody_of_failedWakeup {r : TransportReply} {e : Option HostError} (hfail : FailedWrite r e)
    (hreplies : s.host.replies = .ok b1 :: r :: more) : singleShotBody s =
      stopped (e.map fun _ => .wakeup) (answered (.write Config.busAddr (be16 (catalogRow .wakeup).opcode)) more
        { triggered (r :: more) s with block := selected .wakeup (triggered (r :: more) s).block }) := by
  have hreplies' : (triggered (r :: more) s).host.replies = r :: more := noteMode_replies _ _ _ _
  rw [singleShotBody_of_triggered hquiet hreplies,
    encodeAndSend_of_failed (calm_of_quiet (triggered_quiet hquiet) 5) hreplies' hfail,
    later_of_quiet (triggered_quiet hquiet), asWakeupError_stopped, andThen_stopped]

end

/-- A single shot whose wake-up fails or never returns stops after the wake-up's write. -/
theorem exec_singleShot_of_failedWakeup {s : State} (hquiet : s.host.resets = []) {b1 : List Byte} {r : TransportReply}
    {e : Option HostError} (hfail : FailedWrite r e) {rest : List TransportReply}
    (hreplies : s.host.replies = .ok b1 :: r :: rest) : ∃ t, exec .singleShotMeasurement s = .next t ∧
      (sessionAllows .singleShotMeasurement s.host = true →
        t.host.result = e.map (fun _ => .error .wakeup) ∧ (e = none → t.host.hung = true) ∧
        t.block = selected .wakeup s.block ∧ t.host.wire = s.host.wire ++ singleShotCalls.take 3) := by
  refine exec_of_stopped (singleShotBody_of_failedWakeup hquiet hfail hreplies) (fun _ => rfl)
    ⟨Option.map_map _ _ _, fun h => halted_hung _ _ (by simp [h]), ?_⟩
  simp [answered, triggered, sent, sleepFor, selected, singleShotCalls_eq]

/-- Settles O54: a failed write of the wake-up stops the single shot, and its error is `WakeupError`. -/
theorem failingWakeupInsideASingleShotIsItsOwnError : Obligations.FailingWakeupInsideASingleShotIsItsOwnError := by
  refine fun s b1 rest hquiet => ⟨fun hreplies => ?_, fun hreplies => ?_⟩
  · exact exec_imp (exec_singleShot_of_failedWakeup hquiet .error hreplies)
      fun t ⟨hresult, _, hblock, hwire⟩ => ⟨hresult, hblock, hwire⟩
  · exact exec_imp (exec_singleShot_of_failedWakeup hquiet .noReturn hreplies)
      fun t ⟨hresult, hhung, hblock, hwire⟩ => ⟨hresult, hhung rfl, hblock, hwire⟩

/-- A single shot whose third write fails or never returns stops after it. -/
theorem exec_singleShot_of_failedThirdWrite {s : State} (hquiet : s.host.resets = []) {b1 b2 : List Byte}
    {r : TransportReply} {e : Option HostError} (hfail : FailedWrite r e) {rest : List TransportReply}
    (hreplies : s.host.replies = .ok b1 :: .ok b2 :: r :: rest) : ∃ t, exec .singleShotMeasurement s = .next t ∧
      (sessionAllows .singleShotMeasurement s.host = true →
        t.host.result = e.map .error ∧ (e = none → t.host.hung = true) ∧
        t.host.wire = s.host.wire ++ singleShotCalls.take 5 ∧ t.host.replies = rest ∧
        t.block = selected .readMeasurement s.block) := by
  have hquiet' : (woken (r :: rest) s).host.resets = [] := hquiet
  have hsend := encodeAndSend_of_failed (c := .readMeasurement) (calm_of_quiet hquiet' 5) rfl hfail
  have hbody := (singleShotBody_of_woken hquiet hreplies).trans (responseBody_of_stoppedSend hsend _ _)
  refine exec_of_stopped hbody (fun _ => rfl) ⟨rfl, halted_hung _ _, ?_⟩
  simp [answered, later, woken, selected, singleShotCalls_eq]

/-- Settles O51: the first write of every call, and the third of a single shot. -/
theorem failingWriteEndsTheCallAtOnce : Obligations.FailingWriteEndsTheCallAtOnce := by
  refine ⟨fun s i c bytes rest hquiet hwire hwf hframe => ⟨fun hreplies => ?_, fun hreplies => ?_⟩,
    fun s b1 b2 rest hquiet => ⟨fun hreplies => ?_, fun hreplies => ?_⟩⟩
  · exact exec_imp (exec_of_failedFirstWrite hquiet hwire hwf hframe .error hreplies)
      fun t ⟨hresult, _, hcalls, hleft⟩ => ⟨hresult, hcalls, hleft⟩
  · exact exec_imp (exec_of_failedFirstWrite hquiet hwire hwf hframe .noReturn hreplies)
      fun t ⟨hresult, hhung, hcalls, _⟩ => ⟨hresult, hhung rfl, hcalls⟩
  · exact exec_imp (exec_singleShot_of_failedThirdWrite hquiet .error hreplies)
      fun t ⟨hresult, _, hcalls, hleft, hblock⟩ => ⟨hresult, hcalls, hleft, hblock⟩
  · exact exec_imp (exec_singleShot_of_failedThirdWrite hquiet .noReturn hreplies)
      fun t ⟨hresult, hhung, hcalls, _, hblock⟩ => ⟨hresult, hhung rfl, hcalls, hblock⟩

end Sys2Proof.Machine

/-! PROOFS. How a call with response ends (spec/60_exceptions.md R152, R153): reads that fail, responses that do not
match, resets inside the call, and the values it may return. -/

namespace Sys2Proof.Machine

/-! ## A response on its way into the block (R171 steps 4 to 6) -/

theorem andThen_assoc {α β γ : Type} (x : Exchange α) (f : α → State → Exchange β) (g : β → State → Exchange γ) :
    andThen (andThen x f) g = andThen x fun v s => andThen (f v s) g := by
  cases x <;> rfl

/-- What is left of a call with response once its frame is sent. -/
theorem responseBody_of_sent {s : State} (hcalm : Calm 5 s) {c : WireCmd} {b1 : List Byte} {more : List TransportReply}
    (hreplies : s.host.replies = .ok b1 :: more) (valid : Block → Bool) (view : State → HostValue × State) :
    responseBody c valid view s = andThen (readBytes (responseLength c) (sent c more (later 5 s))) fun bytes s1 =>
      andThen (decodeResponse c (loadResponse bytes s1)) fun _ s2 => trusted valid view s2 := by
  rw [responseBody, exchangeWithResponse, sendAndRead, encodeAndSend_of_ok hcalm hreplies, andThen_assoc]
  rfl

theorem accessPoint_withResponse_of_calm {s : State} (hcalm : Calm 1 s) (bytes : List Byte) :
    accessPoint (withResponse bytes s) = withResponse bytes (later 1 s) :=
  accessPoint_of_calm (s := withResponse bytes s) hcalm

theorem loadBytes_of_calm (bytes : List Byte) : ∀ (pre : List Byte) (s : State), pre.length + bytes.length ≤ 9 →
    Calm bytes.length s →
    loadBytes bytes (withResponse pre s) = withResponse (pre ++ bytes) (later bytes.length s) := by
  induction bytes with
  | nil => simp [loadBytes, later]
  | cons v rest ih =>
    intro pre s hlen hcalm
    rw [List.length_cons] at hlen
    rw [List.length_cons, Nat.add_comm] at hcalm ⊢
    obtain ⟨hfirst, hrest⟩ := calm_add.mp hcalm
    have hpush : operate (opRxByte v) (withResponse pre (later 1 s)) = withResponse (pre ++ [v]) (later 1 s) :=
      Host.Outcome.next.inj (exec_rxByte_withResponse (by omega) v (later 1 s))
    rw [loadBytes, hostOperate, accessPoint_withResponse_of_calm hfirst, hpush,
      ih (pre ++ [v]) (later 1 s) (by simp; omega) hrest, later_later]
    simp

theorem loadResponse_of_calm {bytes : List Byte} (hlen : bytes.length ≤ 9) {s : State}
    (hcalm : Calm (1 + bytes.length) s) : loadResponse bytes s = withResponse bytes (later (1 + bytes.length) s) := by
  obtain ⟨hclear, hload⟩ := calm_add.mp hcalm
  have hcleared : operate opRxClr (later 1 s) = withResponse [] (later 1 s) := Host.Outcome.next.inj (exec_rxClr _)
  rw [loadResponse, hostOperate, accessPoint_of_calm hclear, hcleared,
    loadBytes_of_calm bytes [] (later 1 s) (by simpa using hlen) hload, later_later, List.nil_append]

theorem responseLength_le (c : WireCmd) : responseLength c ≤ 9 := by cases c <;> decide

/-- After a command's exchange up to the loading of this response, with these outcomes left. -/
def received (c : WireCmd) (bytes : List Byte) (rest : List TransportReply) (s : State) : State :=
  withResponse bytes (answered (.read Config.busAddr (responseLength c)) rest (sent c (.ok bytes :: rest) s))

/-- What is left of a call with response once the response is loaded: `RX.CLR` and the bytes are accesses too. -/
theorem responseBody_of_received {s : State} {c : WireCmd} {b1 bytes : List Byte} {rest : List TransportReply}
    (hlen : bytes.length = responseLength c) (hcalm : Calm (6 + bytes.length) s)
    (hreplies : s.host.replies = .ok b1 :: .ok bytes :: rest) (valid : Block → Bool)
    (view : State → HostValue × State) : responseBody c valid view s =
      andThen (decodeResponse c (received c bytes rest (later (6 + bytes.length) s)))
        fun _ s' => trusted valid view s' := by
  have hn : 6 + bytes.length = 5 + (1 + bytes.length) := by omega
  rw [hn] at hcalm ⊢
  obtain ⟨hsend, hload⟩ := calm_add.mp hcalm
  have hlater : later (5 + (1 + bytes.length)) s = later (1 + bytes.length) (later 5 s) := (later_later _ _ _).symm
  rw [responseBody_of_sent hsend hreplies, ← hlen, readBytes_of_ok (more := rest) rfl, andThen,
    loadResponse_of_calm (hlen ▸ responseLength_le c) (by exact hload), received, ← hlen, hlater]
  rfl

/-- What the host trusts of a validated response is the answer its words give. -/
def TrustsAnswer (c : WireCmd) (valid : Block → Bool) (view : State → HostValue × State) : Prop :=
  ∀ (bytes : List Byte) (s s' : State) (v : HostValue), Validated (catalogRow c).respWords.toNat bytes s.block →
    trusted valid view s = .ok v s' →
    v = answerOf c (responseWord bytes 0) (responseWord bytes 1) (responseWord bytes 2)

/-- A wire instruction with response is a call that reads the answer (R180 to R184). -/
theorem exec_response {i : Instr} {c : WireCmd} (hwire : wireOf i = some c) (hwords : (catalogRow c).respWords ≠ 0#2) :
    ∃ valid view, (∀ s, exec i s = .next (hostCall c (responseBody c valid view) s)) ∧ TrustsAnswer c valid view := by
  cases i <;> cases hwire
  case getSerialNumber => exact ⟨_, _, fun _ => rfl, trusted_serialView⟩
  case readMeasurement => exact ⟨_, _, fun _ => rfl, trusted_measurementView⟩
  case getDataReadyStatus | getSensorAltitude | getAmbientPressure | getAscEnabled | getAscTarget =>
    exact ⟨_, _, fun _ => rfl, trusted_oneWordView _ _⟩
  all_goals exact absurd rfl hwords

/-! ## A read that gives no bytes (R152, R175) -/

theorem responseBody_of_failedRead {s : State} (hquiet : s.host.resets = []) {c : WireCmd} {b1 : List Byte}
    {r : TransportReply} {rest : List TransportReply} {hungBefore hung : Bool} {result : Option HostResult}
    (hreplies : s.host.replies = .ok b1 :: r :: rest)
    (hfail : FailedRead r (responseLength c) hungBefore result hung) (valid : Block → Bool)
    (view : State → HostValue × State) : ∃ e : Option HostError, result = e.map .error ∧
      hung = (hungBefore || e.isNone) ∧ responseBody c valid view s =
        stopped e (answered (.read Config.busAddr (responseLength c)) rest (sent c (r :: rest) s)) := by
  obtain ⟨e, hresult, hhung, hread⟩ := readBytes_of_failed (s := sent c (r :: rest) s) rfl hfail
  refine ⟨e, hresult, hhung, ?_⟩
  rw [responseBody_of_sent (calm_of_quiet hquiet 5) hreplies, later_of_quiet hquiet, hread, andThen_stopped]

/-- Settles O52: the call stops at its read, with the block as the exchange's `ENC.CAT` left it. -/
theorem failingOrShortReadLoadsNothing : Obligations.FailingOrShortReadLoadsNothing := by
  refine ⟨fun s i c b1 r rest result hung hquiet hwire hwords hreplies hfail => ?_,
    fun s b1 b2 b3 r rest result hung hquiet hreplies hfail => ?_⟩
  · obtain ⟨valid, view, hexec, _⟩ := exec_response hwire hwords
    obtain ⟨e, rfl, rfl, hbody⟩ := responseBody_of_failedRead hquiet hreplies hfail valid view
    rw [hexec, hostCall_eq_of_stopped hbody]
    simp [halted, answered, sent, sleepFor, responseLength]
  · have hquiet' : (woken (.ok b3 :: r :: rest) s).host.resets = [] := hquiet
    obtain ⟨e, rfl, rfl, hread⟩ := responseBody_of_failedRead (c := .readMeasurement) hquiet' rfl hfail (·.mv)
      measurementView
    have hbody : singleShotBody s = stopped e _ := (singleShotBody_of_woken hquiet hreplies).trans hread
    rw [exec, execSingleShotMeasurement, hostCall_eq_of_stopped hbody]
    simp [halted, answered, sent, sleepFor, woken, selected, singleShotCalls_eq]

/-! ## A response of which some group does not match (R142, R153) -/

/-- The number of groups a command with response has decoded. -/
theorem respWords_cases {c : WireCmd} (hwords : (catalogRow c).respWords ≠ 0#2) :
    (catalogRow c).respWords.setWidth 8 = 1#8 ∨ (catalogRow c).respWords.setWidth 8 = 3#8 := by
  revert hwords
  cases c <;> decide

theorem toNat_respWords (c : WireCmd) :
    ((catalogRow c).respWords.setWidth 8 : Byte).toNat = (catalogRow c).respWords.toNat := by
  cases c <;> rfl

theorem toNat_rxlen_withResponse {bytes : List Byte} (hlen : bytes.length ≤ 9) (s : State) :
    (withResponse bytes s).block.rxlen.toNat = bytes.length := by
  simp [withResponse]
  omega

theorem groupCrc_eq_groupReceived_iff {k : Nat} (hk : k < 3) (bytes : List Byte) (s : State) :
    groupCrc (withResponse bytes s).block k = groupReceived (withResponse bytes s).block k ↔ groupMatches bytes k := by
  rw [groupCrc_withResponse _ _ hk, groupReceived_withResponse _ _ hk, groupMatches]

theorem opDecAll_withResponse_of_mismatch {n : Byte} (hn : n = 1#8 ∨ n = 3#8) {bytes : List Byte}
    (hlen : bytes.length = 3 * n.toNat) {k : Nat} (hk : k < n.toNat) (hne : ¬ groupMatches bytes k) (s : State) :
    ∃ x, opDecAll n (withResponse bytes s).block =
      .raised .crcMismatch { startAll (withResponse bytes s).block with crc := x } := by
  have hle : n.toNat ≤ 3 := by rcases hn with rfl | rfl <;> decide
  have hscan : (scanGroups (withResponse bytes s).block n.toNat 0 (withResponse bytes s).block.crc).2 = false := by
    rw [← Bool.not_eq_true, scanGroups_ok]
    exact fun hall => hne ((groupCrc_eq_groupReceived_iff (by omega) bytes s).mp (hall k (Nat.zero_le k) (by omega)))
  exact ⟨_, opDecAll_of_mismatch hn ((toNat_rxlen_withResponse (by omega) s).trans hlen) (Prod.ext rfl hscan)⟩

/-- No word is valid and none is stored, and `CRC_MISMATCH` was raised. -/
def Mismatched (before after : Block) : Prop :=
  after.w = before.w ∧ after.wv = #v[false, false, false] ∧ after.mv = false ∧ after.err = 1#3 ∧ after.sticky = true

theorem checkStatus_of_mismatch {s : State} (hquiet : s.host.resets = []) (herr : s.block.err = 1#3)
    (valid : Block → Bool) : checkStatus valid s = .error .checksum s := by
  simp [checkStatus, accessPoint_quiet s hquiet, herr, errorCode]

section
variable {s : State} (hquiet : s.host.resets = []) {c : WireCmd} {bytes : List Byte} {k : Nat}
  (hlen : bytes.length = 3 * (catalogRow c).respWords.toNat) (hk : k < (catalogRow c).respWords.toNat)
  (hne : ¬ groupMatches bytes k)
include hquiet hlen hk hne

theorem decodeResponse_of_mismatch : ∃ b, Mismatched s.block b ∧
    decodeResponse c (withResponse bytes s) = stopped (some .checksum) { s with block := b } := by
  have hn := respWords_cases (c := c) fun h => by simp [h] at hk
  obtain ⟨x, hdec⟩ := opDecAll_withResponse_of_mismatch hn (by rwa [toNat_respWords]) (by rwa [toNat_respWords]) hne s
  refine ⟨raiseError .crcMismatch { startAll (withResponse bytes s).block with crc := x },
    ⟨rfl, rfl, rfl, rfl, rfl⟩, ?_⟩
  rw [decodeResponse, hostOperate_quiet (by exact hquiet), operate, hdec]
  exact checkStatus_of_mismatch (by exact hquiet) rfl _

theorem responseBody_of_mismatch {b1 : List Byte} {rest : List TransportReply}
    (hreplies : s.host.replies = .ok b1 :: .ok bytes :: rest) (valid : Block → Bool)
    (view : State → HostValue × State) : ∃ b, Mismatched s.block b ∧ responseBody c valid view s =
      stopped (some .checksum) { received c bytes rest s with block := b } := by
  have hquiet' : (answered (.read Config.busAddr (responseLength c)) rest (sent c (.ok bytes :: rest) s)).host.resets =
    [] := hquiet
  obtain ⟨b, hb, hdecode⟩ := decodeResponse_of_mismatch hquiet' hlen hk hne
  refine ⟨b, hb, ?_⟩
  rw [responseBody_of_received hlen (calm_of_quiet hquiet _) hreplies, later_of_quiet hquiet, received, hdecode,
    andThen_stopped]
  rfl

end

/-- A call with response ends with `ChecksumError`. -/
theorem exec_of_mismatch {s : State} {i : Instr} {c : WireCmd} {b1 bytes : List Byte} {rest : List TransportReply}
    {k : Nat} (hquiet : s.host.resets = []) (hwire : wireOf i = some c)
    (hlen : bytes.length = 3 * (catalogRow c).respWords.toNat) (hk : k < (catalogRow c).respWords.toNat)
    (hne : ¬ groupMatches bytes k) (hreplies : s.host.replies = .ok b1 :: .ok bytes :: rest) :
    ∃ t, exec i s = .next t ∧ (sessionAllows c s.host = true →
      t.host.result = some (.error .checksum) ∧ Mismatched s.block t.block) := by
  obtain ⟨valid, view, hexec, _⟩ := exec_response hwire fun h => by simp [h] at hk
  obtain ⟨b, hb, hbody⟩ := responseBody_of_mismatch hquiet hlen hk hne hreplies valid view
  exact exec_of_stopped hbody hexec ⟨rfl, hb⟩

/-- A single shot ends with `ChecksumError` after all of its calls. -/
theorem exec_singleShot_of_mismatch {s : State} {b1 b2 b3 bytes : List Byte} {rest : List TransportReply} {k : Nat}
    (hquiet : s.host.resets = []) (hlen : bytes.length = 9) (hk : k < 3) (hne : ¬ groupMatches bytes k)
    (hreplies : s.host.replies = .ok b1 :: .ok b2 :: .ok b3 :: .ok bytes :: rest) :
    ∃ t, exec .singleShotMeasurement s = .next t ∧ (sessionAllows .singleShotMeasurement s.host = true →
      t.host.result = some (.error .checksum) ∧ Mismatched s.block t.block ∧
      t.host.wire = s.host.wire ++ singleShotCalls) := by
  have hquiet' : (woken (.ok b3 :: .ok bytes :: rest) s).host.resets = [] := hquiet
  obtain ⟨b, hb, hread⟩ := responseBody_of_mismatch (c := .readMeasurement) hquiet' hlen hk hne rfl (·.mv)
    measurementView
  refine exec_of_stopped ((singleShotBody_of_woken hquiet hreplies).trans hread) (fun _ => rfl) ⟨rfl, hb, ?_⟩
  simp [received, withResponse, answered, sent, sleepFor, woken, singleShotCalls_eq]

/-! ## A reset inside a call (R153, R160, R168) -/

/-- The last reset listed came before an operation, which then ended in this error. -/
def failedAfterReset (code : BitVec 3) (s : State) : State :=
  { block := resetThenError code, host := { s.host with resets := [] } }

theorem hostOperate_of_reset {s : State} (hreset : s.host.resets = [true]) {op : Block → OpEnd} {e : BlockError}
    (hraise : op Block.reset = .raised e Block.reset) : hostOperate op s = failedAfterReset (errorCode e) s := by
  rw [hostOperate, accessPoint_of_reset hreset, operate, hraise]
  rfl

/-- An error other than `CRC_MISMATCH` in `STATUS` ends the call with a kind that R152 leaves open. -/
theorem checkStatus_failedAfterReset {code : BitVec 3} (hok : code ≠ 0#3) (hmismatch : code ≠ 1#3) (s : State)
    (valid : Block → Bool) : checkStatus valid (failedAfterReset code s) =
      .error (Config.statusErrorKind (statusWord (resetThenError code))) (failedAfterReset code s) := by
  have hquiet : (failedAfterReset code s).host.resets = [] := rfl
  have herr : (failedAfterReset code s).block.err = code := rfl
  simp only [checkStatus, accessPoint_quiet _ hquiet, herr, hok, hmismatch, errorCode, false_and, if_false]
  rfl

theorem statusWord_after_seq : statusWord (resetThenError 2#3) = 0x0000000A#32 := by decide

theorem statusWord_after_length : statusWord (resetThenError 4#3) = 0x0000000C#32 := by decide

/-- `ENC.ARG` finds no frame after a reset, and nothing is sent. -/
theorem argumentBody_of_reset {s : State} (hreset : s.host.resets = [false, true]) (c : WireCmd) (arg : Word) :
    argumentBody c arg s =
      stopped (some (Config.statusErrorKind 0x0000000A#32)) (failedAfterReset 2#3 s) := by
  have hcat : encodeCommand c s = { later 1 s with block := selected c s.block } :=
    encodeCommand_of_calm (by simp [Calm, hreset]) c
  have henc : encodeWithArgument c arg s = failedAfterReset 2#3 s := by
    rw [encodeWithArgument, hcat, hostOperate_of_reset (by simp [later, hreset]) (opEncArg_of_no_frame (by decide) arg)]
    rfl
  have hsend : sendFrame (failedAfterReset 2#3 s) =
      .error (Config.statusErrorKind 0x0000000A#32) (failedAfterReset 2#3 s) := by
    rw [sendFrame, readFrame_quiet _ rfl, checkStatus_failedAfterReset (by decide) (by decide), andThen,
      statusWord_after_seq]
  rw [argumentBody, sendOnly, henc, hsend]
  rfl

/-- `DEC.ALL` finds nothing loaded after a reset. -/
theorem decodeResponse_of_reset {s : State} (hreset : s.host.resets = [true]) {c : WireCmd}
    (hwords : (catalogRow c).respWords ≠ 0#2) : decodeResponse c s =
      stopped (some (Config.statusErrorKind 0x0000000C#32)) (failedAfterReset 4#3 s) := by
  have hn := respWords_cases hwords
  have hempty : Block.reset.rxlen.toNat ≠ 3 * ((catalogRow c).respWords.setWidth 8 : Byte).toNat := by
    rcases hn with h | h <;> rw [h] <;> decide
  rw [decodeResponse, hostOperate_of_reset hreset (opDecAll_of_length hn hempty),
    checkStatus_failedAfterReset (by decide) (by decide), errorCode, statusWord_after_length]
  rfl

/-- `CVT.MEAS` finds no word valid after a reset. -/
theorem trusted_measurementView_of_reset {s : State} (hreset : s.host.resets = [true]) :
    trusted (·.mv) measurementView s =
      stopped (some (Config.statusErrorKind 0x0000000A#32)) (failedAfterReset 2#3 s) := by
  have hview : (measurementView s).2 = failedAfterReset 2#3 s := by
    simp only [measurementView, hostOperate_of_reset hreset (opCvtMeas_of_invalid rfl), errorCode,
      accessPoint_quiet (failedAfterReset 2#3 s) rfl]
  rw [trusted, hview, checkStatus_failedAfterReset (by decide) (by decide), andThen, statusWord_after_seq]
  rfl

/-- Three matching groups are decoded, and the host finds nothing wrong in `STATUS`. -/
theorem decodeResponse_readMeasurement_of_match {bytes : List Byte} (hlen : bytes.length = 9)
    (hmatch : ∀ k < 3, groupMatches bytes k) {s : State} (hcalm : Calm 2 s) :
    ∃ t, decodeResponse .readMeasurement (withResponse bytes s) = .ok () t ∧
      t.host.resets = s.host.resets.drop 2 := by
  obtain ⟨hdec, hstatus⟩ := (calm_add (m := 1) (n := 1)).mp hcalm
  have hall := opDecAll_three_of_match (b := (withResponse bytes (later 1 s)).block) (by simp [withResponse, hlen])
    fun k hk => (groupCrc_eq_groupReceived_iff hk bytes _).mpr (hmatch k hk)
  have hgood : (operate (opDecAll 3#8) (withResponse bytes (later 1 s))).block.err = 0#3 ∧
      responseValid .readMeasurement (operate (opDecAll 3#8) (withResponse bytes (later 1 s))).block = true := by
    rw [operate, hall]
    exact ⟨rfl, rfl⟩
  refine ⟨later 1 (operate (opDecAll 3#8) (withResponse bytes (later 1 s))), ?_, List.drop_drop⟩
  rw [← checkStatus_of_calm (by exact hstatus) hgood.1 hgood.2, ← accessPoint_withResponse_of_calm hdec]
  rfl

/-! ### The calls in which such a reset falls -/

theorem exec_argument {i : Instr} {c : WireCmd} (hwire : wireOf i = some c) (harg : (catalogRow c).hasArg = true) :
    ∃ arg, ∀ s, exec i s = .next (hostCall c (argumentBody c arg) s) := by
  cases i <;> cases hwire
  case setSensorAltitude arg _ | setAmbientPressure arg _ | setAscEnabled arg _ | setAscTarget arg _ =>
    exact ⟨arg, fun _ => rfl⟩
  all_goals cases harg

theorem exec_of_resetBeforeArgument {s : State} {i : Instr} {c : WireCmd} (hwire : wireOf i = some c)
    (harg : (catalogRow c).hasArg = true) (hreset : s.host.resets = [false, true]) :
    ∃ t, exec i s = .next t ∧ (sessionAllows c s.host = true →
      t.host.result = some (.error (Config.statusErrorKind 0x0000000A#32)) ∧ t.block = resetThenError 2#3 ∧
      t.host.wire = s.host.wire) := by
  obtain ⟨arg, hexec⟩ := exec_argument hwire harg
  exact exec_of_stopped (argumentBody_of_reset hreset c arg) hexec ⟨rfl, rfl, rfl⟩

/-- The tenth access of a call with a one-word response is its `DEC.ALL`. -/
theorem exec_of_resetBeforeDecoding {s : State} {i : Instr} {c : WireCmd} {b1 : List Byte} {m l x : Byte}
    {rest : List TransportReply} (hwire : wireOf i = some c) (hwords : (catalogRow c).respWords = 1#2)
    (hreset : s.host.resets = List.replicate 9 false ++ [true])
    (hreplies : s.host.replies = .ok b1 :: .ok [m, l, x] :: rest) :
    ∃ t, exec i s = .next t ∧ (sessionAllows c s.host = true →
      t.host.result = some (.error (Config.statusErrorKind 0x0000000C#32)) ∧ t.block = resetThenError 4#3) := by
  have hsome : (catalogRow c).respWords ≠ 0#2 := by rw [hwords]; decide
  obtain ⟨valid, view, hexec, _⟩ := exec_response hwire hsome
  have hlast : (later 9 s).host.resets = [true] := by simp [later, hreset]
  have hdecode := decodeResponse_of_reset (s := received c [m, l, x] rest (later 9 s)) hlast hsome
  have hbody := responseBody_of_received (c := c) (by simp [responseLength, hwords]) (by simp [Calm, hreset]) hreplies
    valid view
  rw [List.length_cons, List.length_cons, List.length_cons, List.length_nil, hdecode, andThen_stopped] at hbody
  exact exec_of_stopped hbody hexec ⟨rfl, rfl⟩

/-- The eighteenth access of a `read_measurement` is its `CVT.MEAS`. -/
theorem exec_readMeasurement_of_resetBeforeConversion {s : State} {b1 bytes : List Byte} {rest : List TransportReply}
    (hlen : bytes.length = 9) (hmatch : ∀ k < 3, groupMatches bytes k)
    (hreset : s.host.resets = List.replicate 17 false ++ [true])
    (hreplies : s.host.replies = .ok b1 :: .ok bytes :: rest) :
    ∃ t, exec .readMeasurement s = .next t ∧ (sessionAllows .readMeasurement s.host = true →
      t.host.result = some (.error (Config.statusErrorKind 0x0000000A#32)) ∧ t.block = resetThenError 2#3) := by
  obtain ⟨t, hdecode, hlast⟩ := decodeResponse_readMeasurement_of_match hlen hmatch
    (s := answered (.read Config.busAddr (responseLength .readMeasurement)) rest
      (sent .readMeasurement (.ok bytes :: rest) (later (6 + bytes.length) s)))
    (by simp [Calm, later, answered, sent, hlen, hreset])
  have hbody := responseBody_of_received (c := .readMeasurement) hlen (by simp [Calm, hlen, hreset]) hreplies (·.mv)
    measurementView
  rw [received, hdecode] at hbody
  have htrusted := trusted_measurementView_of_reset (hlast.trans (by simp [later, answered, sent, hlen, hreset]))
  exact exec_of_stopped (hbody.trans htrusted) (fun _ => rfl) ⟨rfl, rfl⟩

/-! ## Where a call with response returns a value, its response says it (R153, R168) -/

section
variable {bytes : List Byte} {s t : State} {v : HostValue}

theorem answer_of_responseBody_ok {c : WireCmd} {valid : Block → Bool} {view : State → HostValue × State}
    (htrusts : TrustsAnswer c valid view) (hwords : (catalogRow c).respWords ≠ 0#2) {b1 : List Byte}
    {rest : List TransportReply} (hreplies : s.host.replies = .ok b1 :: .ok bytes :: rest)
    (hbody : responseBody c valid view s = .ok v t) : (∀ k < (catalogRow c).respWords.toNat, groupMatches bytes k) ∧
      v = answerOf c (responseWord bytes 0) (responseWord bytes 1) (responseWord bytes 2) := by
  obtain ⟨u, hvalid, htrusted⟩ := responseBody_ok c valid view s t b1 bytes rest v hreplies hwords hbody
  exact ⟨hvalid.1, htrusts bytes u t v hvalid htrusted⟩

theorem answer_of_exec {i : Instr} {c : WireCmd} (hwire : wireOf i = some c) (hwords : (catalogRow c).respWords ≠ 0#2)
    {b1 : List Byte} {rest : List TransportReply} (hreplies : s.host.replies = .ok b1 :: .ok bytes :: rest)
    (hallowed : sessionAllows c s.host = true) (hexec : exec i s = .next t) (hresult : t.host.result = some (.ok v)) :
    (∀ k < (catalogRow c).respWords.toNat, groupMatches bytes k) ∧
      v = answerOf c (responseWord bytes 0) (responseWord bytes 1) (responseWord bytes 2) := by
  obtain ⟨valid, view, hcall, htrusts⟩ := exec_response hwire hwords
  rw [hcall] at hexec
  obtain ⟨u, hbody⟩ := hostCall_ok c _ s t v hallowed (Host.Outcome.next.inj hexec) hresult
  exact answer_of_responseBody_ok htrusts hwords hreplies hbody

end

section
variable {α : Type} {s : State} {v : α}

theorem andThen_ok {β : Type} {x : Exchange β} {f : β → State → Exchange α} (h : andThen x f = .ok v s) :
    ∃ w u, x = .ok w u ∧ f w u = .ok v s := by
  cases x with
  | ok w u => exact ⟨w, u, rfl, h⟩
  | error | noReturn => cases h

theorem leadingTo_ok {m : SensorMode} {keeps : Bool} {x : Exchange α} (h : leadingTo m keeps x = .ok v s) :
    ∃ u, x = .ok v u ∧ s = noteMode (some m) false (keeps && u.host.stopOwed) u := by
  cases x <;> cases h
  exact ⟨_, rfl, rfl⟩

theorem asWakeupError_ok {x : Exchange α} (h : asWakeupError x = .ok v s) : x = .ok v s := by
  cases x <;> cases h
  rfl

end

/-- A single shot that returns a value got it from its read, the third exchange. -/
theorem singleShotBody_ok {s t : State} {v : HostValue} {b1 b2 : List Byte} {more : List TransportReply}
    (hreplies : s.host.replies = .ok b1 :: .ok b2 :: more) (h : singleShotBody s = .ok v t) :
    ∃ u, u.host.replies = more ∧ measurementBody u = .ok v t := by
  obtain ⟨⟨⟩, s1, htrigger, hafter⟩ := andThen_ok h
  obtain ⟨⟨⟩, s2, hwakeup, hread⟩ := andThen_ok hafter
  obtain ⟨u, hsend, rfl⟩ := leadingTo_ok htrigger
  have hu : u.host.replies = .ok b2 :: more := sendOnly_ok _ (encodeCommand _ s) u b1 _ hreplies hsend
  have hs2 : s2.host.replies = more :=
    sendOnly_ok _ (encodeCommand _ _) s2 b2 _ ((noteMode_replies _ _ _ u).trans hu) (asWakeupError_ok hwakeup)
  exact ⟨_, (noteMode_replies _ _ _ s2).trans hs2, hread⟩

/-- Settles O53: mismatching groups, then the three resets, then the values returned, of which a single shot's is that
of its read. -/
theorem failuresOfTheBlockEndTheCallWithAnError : Obligations.FailuresOfTheBlockEndTheCallWithAnError := by
  refine ⟨fun s i c b1 bytes rest k hquiet hwire hlen hk hne => exec_of_mismatch hquiet hwire hlen hk hne,
    fun s b1 b2 b3 bytes rest k hquiet hlen hk hne hreplies => ?_,
    fun s i c => exec_of_resetBeforeArgument,
    fun s i c b1 m l x rest => exec_of_resetBeforeDecoding,
    fun s b1 bytes rest => exec_readMeasurement_of_resetBeforeConversion,
    fun s t i c b1 bytes rest v hwire hwords hreplies => answer_of_exec hwire hwords hreplies,
    fun s t b1 b2 b3 bytes rest v hreplies hallowed hexec hresult => ?_⟩
  · exact exec_imp (exec_singleShot_of_mismatch hquiet hlen hk hne hreplies)
      fun t ⟨hresult, ⟨hw, hwv, hmv, herr, hsticky⟩, hwire⟩ => ⟨hresult, hw, hwv, hmv, herr, hsticky, hwire⟩
  · obtain ⟨u, hbody⟩ := hostCall_ok _ _ s t v hallowed (Host.Outcome.next.inj hexec) hresult
    obtain ⟨s3, hreplies3, hread⟩ := singleShotBody_ok hreplies hbody
    exact answer_of_responseBody_ok (c := .readMeasurement) trusted_measurementView (by decide) hreplies3 hread

end Sys2Proof.Machine

/-! PROOFS. Calls that succeed (spec/70_reset_and_hazards.md R171 to R185): no reset falls inside, the transport answers
every call, and the whole next state is given. -/

namespace Sys2Proof.Machine

/-! ## A call that gives a value (R153) -/

theorem hostCall_eq_of_ok {c : WireCmd} {body : State → Exchange HostValue} {s u : State} {v : HostValue}
    (hbody : body s = .ok v u) :
    hostCall c body s = if sessionAllows c s.host then giveResult (.ok v) u else turnedAway s := by
  rw [hostCall, hbody]
  rfl

/-! ## Commands without response: the frame, then the delay (R173, R174, R176) -/

/-- What a command leaves on the host's side that writes this frame, waits, and returns. -/
def afterSending (c : WireCmd) (frame : List Byte) (rest : List TransportReply) (h : HostSide) : HostSide :=
  { h with
    wire := h.wire ++ [.write Config.busAddr frame, .sleep (catalogRow c).delayMs]
    replies := rest, calls := h.calls + 1, result := some (.ok .done) }

section
variable {s : State} {b : List Byte} {rest : List TransportReply} (hquiet : s.host.resets = [])
  (hreplies : s.host.replies = .ok b :: rest)
include hquiet hreplies

theorem plainBody_of_ok (c : WireCmd) : plainBody c s = .ok .done (sent c rest s) := by
  rw [plainBody, encodeAndSend_of_ok (calm_of_quiet hquiet 5) hreplies, later_of_quiet hquiet, andThen]

theorem exec_plain_of_ok {i : Instr} {c : WireCmd} (hexec : ∀ s, exec i s = .next (hostCall c (plainBody c) s)) :
    exec i s = .next (if sessionAllows c s.host then
      ⟨selected c s.block, afterSending c (be16 (catalogRow c).opcode) rest s.host⟩ else turnedAway s) := by
  rw [hexec, hostCall_eq_of_ok (plainBody_of_ok hquiet hreplies c)]
  simp [giveResult, sent, sleepFor, answered, afterSending]

theorem exec_mode_of_ok {i : Instr} {c : WireCmd} {m : SensorMode} {keeps : Bool}
    (hexec : ∀ s, exec i s = .next (hostCall c (fun t => leadingTo m keeps (plainBody c t)) s)) :
    exec i s = .next (if sessionAllows c s.host then
      ⟨selected c s.block, { afterSending c (be16 (catalogRow c).opcode) rest s.host with
        mode := modeAfter m s.host
        shotDone := if Config.strictSession then false else s.host.shotDone
        stopOwed := if Config.strictSession then keeps && s.host.stopOwed else s.host.stopOwed }⟩
      else turnedAway s) := by
  have hbody : leadingTo m keeps (plainBody c s) =
      .ok .done (noteMode (some m) false (keeps && s.host.stopOwed) (sent c rest s)) := by
    rw [plainBody_of_ok hquiet hreplies]
    rfl
  rw [hexec, hostCall_eq_of_ok hbody]
  cases hstrict : Config.strictSession <;>
    simp [giveResult, noteMode, sent, sleepFor, answered, afterSending, modeAfter, hstrict]

theorem argumentBody_of_ok (c : WireCmd) (arg : Word) : argumentBody c arg s =
    .ok .done (sleepFor (catalogRow c).delayMs
      (answered (.write Config.busAddr (cmdArgFrame (catalogRow c).opcode arg)) rest
        { s with block := selectedWithArgument c arg s.block })) := by
  have hquiet' : ({ s with block := selectedWithArgument c arg s.block } : State).host.resets = [] := hquiet
  rw [argumentBody, encodeWithArgument_of_calm (calm_of_quiet hquiet 2), later_of_quiet hquiet, sendOnly,
    sendFrame_of_calm (frameStands_selectedWithArgument c arg s.block) (calm_of_quiet hquiet' _),
    later_of_quiet hquiet', writeBytes_of_ok (by exact hreplies), andThen, sleepDelay_eq, andThen]

theorem exec_argument_of_ok {i : Instr} {c : WireCmd} {arg : Word}
    (hexec : ∀ s, exec i s = .next (hostCall c (argumentBody c arg) s)) :
    exec i s = .next (if sessionAllows c s.host then
      ⟨selectedWithArgument c arg s.block, afterSending c (cmdArgFrame (catalogRow c).opcode arg) rest s.host⟩
      else turnedAway s) := by
  rw [hexec, hostCall_eq_of_ok (argumentBody_of_ok hquiet hreplies c arg)]
  simp [giveResult, sleepFor, answered, afterSending]

end

/-- Settles O44: both commands are plain ones. -/
theorem plainCommandsWriteTheFrameThenWait : Obligations.PlainCommandsWriteTheFrameThenWait := by
  intro s bytes rest hquiet hreplies i c hmem
  simp only [List.mem_cons, Prod.mk.injEq, List.not_mem_nil, or_false] at hmem
  rcases hmem with ⟨rfl, rfl⟩ | ⟨rfl, rfl⟩ <;> exact exec_plain_of_ok hquiet hreplies fun _ => rfl

/-- Settles O45: each command is a plain one that leads to a mode, and only `wakeup` keeps the stop that is owed. -/
theorem modeCommandsWriteTheFrameAndNoteTheMode : Obligations.ModeCommandsWriteTheFrameAndNoteTheMode := by
  intro s bytes rest hquiet hreplies i c m owed hmem
  simp only [List.mem_cons, Prod.mk.injEq, List.not_mem_nil, or_false] at hmem
  rcases hmem with ⟨rfl, rfl, rfl, rfl⟩ | ⟨rfl, rfl, rfl, rfl⟩ | ⟨rfl, rfl, rfl, rfl⟩
  · exact exec_mode_of_ok hquiet hreplies (keeps := true) fun _ => rfl
  · exact exec_mode_of_ok hquiet hreplies (keeps := false) fun _ => rfl
  · exact exec_mode_of_ok hquiet hreplies (keeps := false) fun _ => rfl

/-- Settles O46: `ENC.ARG` computes the checksum that is sent, whatever CRC byte the instruction carries. -/
theorem argumentCommandsWriteFiveBytesAtOnce : Obligations.ArgumentCommandsWriteFiveBytesAtOnce := by
  intro s bytes rest arg hquiet hreplies i c crc hmem
  simp only [List.mem_cons, Prod.mk.injEq, List.not_mem_nil, or_false] at hmem
  rcases hmem with ⟨rfl, rfl⟩ | ⟨rfl, rfl⟩ | ⟨rfl, rfl⟩ | ⟨rfl, rfl⟩ <;>
    exact exec_argument_of_ok hquiet hreplies fun _ => rfl

/-! ## Commands with response: the groups match, and the words are read (R115, R171 steps 5 to 7) -/

/-- The block with a response of one word loaded and decoded. -/
def withOneWord (bytes : List Byte) (b : Block) : Block :=
  { b with
    rxb := rxBuffer bytes, rxlen := 3#4, crc := bytes.getD 2 0#8, mv := false
    w := #v[responseWord bytes 0, b.w[1], b.w[2]], wv := #v[true, false, false], err := 0#3 }

/-- The block with a response of three words loaded and decoded. -/
def withThreeWords (bytes : List Byte) (b : Block) : Block :=
  { b with
    rxb := rxBuffer bytes, rxlen := 9#4, crc := bytes.getD 8 0#8, mv := false
    w := #v[responseWord bytes 0, responseWord bytes 1, responseWord bytes 2], wv := #v[true, true, true]
    err := 0#3 }

theorem finish_opDecAll_one {bytes : List Byte} (hlen : bytes.length = 3) (hmatch : groupMatches bytes 0) (s : State) :
    finish (opDecAll 1#8 (withResponse bytes s).block) = withOneWord bytes s.block := by
  have hgroup := (groupCrc_eq_groupReceived_iff (by omega) bytes s).mpr hmatch
  rw [opDecAll_one_of_match (by simp [withResponse, hlen]) hgroup, hgroup, groupReceived_withResponse _ _ (by omega),
    groupWord_withResponse _ _ (by omega)]
  simp [withResponse, withOneWord, hlen]

theorem finish_opDecAll_three {bytes : List Byte} (hlen : bytes.length = 9) (hmatch : ∀ k < 3, groupMatches bytes k)
    (s : State) : finish (opDecAll 3#8 (withResponse bytes s).block) = withThreeWords bytes s.block := by
  have hgroup (k : Nat) (hk : k < 3) := (groupCrc_eq_groupReceived_iff hk bytes s).mpr (hmatch k hk)
  rw [opDecAll_three_of_match (by simp [withResponse, hlen]) hgroup, hgroup 2 (by omega),
    groupReceived_withResponse _ _ (by omega)]
  simp (disch := decide) only [groupWord_withResponse]
  simp [withResponse, withThreeWords, hlen]

/-- What a command leaves on the host's side that exchanges its frame for a response, and returns this value. -/
def afterReading (c : WireCmd) (v : HostValue) (rest : List TransportReply) (h : HostSide) : HostSide :=
  { h with
    wire := h.wire ++ [.write Config.busAddr (be16 (catalogRow c).opcode), .sleep (catalogRow c).delayMs,
      .read Config.busAddr (responseLength c)]
    replies := rest, calls := h.calls + 2, result := some (.ok v) }

theorem trusted_of_view {s t : State} {v : HostValue} {view : State → HostValue × State} (hview : view s = (v, t))
    (hquiet : t.host.resets = []) (herr : t.block.err = 0#3) {valid : Block → Bool} (hvalid : valid t.block = true) :
    trusted valid view s = .ok v t := by
  rw [trusted, hview, checkStatus_quiet valid t hquiet herr hvalid]
  rfl

section
variable {s : State} (hquiet : s.host.resets = [])
include hquiet

theorem oneWordView_quiet (f : Word → HostValue) : oneWordView f s = (f s.block.w[0], s) := by
  simp only [oneWordView, accessPoint_quiet s hquiet]

theorem serialView_quiet : serialView s = (serialValue s.block.w[0] s.block.w[1] s.block.w[2], s) := by
  simp only [serialView, accessPoint_quiet s hquiet]

/-- `CVT.MEAS` of three valid words, and the results read. -/
theorem measurementView_quiet (hwords : allWordsValid s.block = true) : measurementView s =
    (.measurement s.block.w[0] (tempF32 s.block.w[1]) (rhF32 s.block.w[2]), { s with block := { s.block with
      co2 := s.block.w[0], temp := tempF32 s.block.w[1], rh := rhF32 s.block.w[2], mv := true, err := 0#3 } }) := by
  have hread (b : Block) : accessPoint ⟨b, s.host⟩ = ⟨b, s.host⟩ := accessPoint_quiet _ hquiet
  simp only [measurementView, hostOperate_quiet hquiet, operate, opCvtMeas_of_valid hwords, finish_done, hread]

variable {c : WireCmd} {b1 bytes : List Byte} {rest : List TransportReply} (hlen : bytes.length = responseLength c)
  (hreplies : s.host.replies = .ok b1 :: .ok bytes :: rest)
include hlen hreplies

/-- What is left of a call with response once the response is decoded with `OK`. -/
theorem responseBody_of_decoded {b : Block}
    (hdec : finish (opDecAll ((catalogRow c).respWords.setWidth 8) (received c bytes rest s).block) = b)
    (herr : b.err = 0#3) (hvalid : responseValid c b = true) (valid : Block → Bool)
    (view : State → HostValue × State) : responseBody c valid view s =
      trusted valid view { received c bytes rest s with block := b } := by
  have hquiet' : (received c bytes rest s).host.resets = [] := hquiet
  rw [responseBody_of_received hlen (calm_of_quiet hquiet _) hreplies, later_of_quiet hquiet, decodeResponse,
    hostOperate_quiet hquiet', operate, hdec]
  exact congrArg (andThen · _)
    (checkStatus_quiet (responseValid c) { received c bytes rest s with block := b } hquiet' herr hvalid)

/-- A call with response returns what it reads of the decoded response, where both `STATUS` reads are good. -/
theorem responseBody_of_view {valid : Block → Bool} {view : State → HostValue × State} {b b' : Block} {v : HostValue}
    (hdec : finish (opDecAll ((catalogRow c).respWords.setWidth 8) (received c bytes rest s).block) = b)
    (hgood : b.err = 0#3 ∧ responseValid c b = true)
    (hview : view { received c bytes rest s with block := b } = (v, { received c bytes rest s with block := b' }))
    (hgood' : b'.err = 0#3 ∧ valid b' = true) :
    responseBody c valid view s = .ok v { received c bytes rest s with block := b' } :=
  (responseBody_of_decoded hquiet hlen hreplies hdec hgood.1 hgood.2 valid view).trans
    (trusted_of_view hview hquiet hgood'.1 hgood'.2)

omit hquiet hlen hreplies

theorem giveResult_received (v : HostValue) (b : Block) :
    giveResult (.ok v) { received c bytes rest s with block := b } = ⟨b, afterReading c v rest s.host⟩ := by
  simp [giveResult, received, withResponse, answered, sent, sleepFor, afterReading]

end

/-! ### One word (R180, R183, R184) -/

theorem exec_oneWord_of_match {s : State} (hquiet : s.host.resets = []) {b1 bytes : List Byte}
    {rest : List TransportReply} (hlen : bytes.length = 3) (hmatch : groupMatches bytes 0)
    (hreplies : s.host.replies = .ok b1 :: .ok bytes :: rest) {i : Instr} {c : WireCmd}
    (hwords : (catalogRow c).respWords = 1#2) {f : Word → HostValue}
    (hexec : ∀ s, exec i s = .next (hostCall c (wordsBody c (oneWordView f)) s)) :
    exec i s = .next (if sessionAllows c s.host then
      ⟨withOneWord bytes (selected c s.block), afterReading c (f (responseWord bytes 0)) rest s.host⟩
      else turnedAway s) := by
  have hdec : finish (opDecAll ((catalogRow c).respWords.setWidth 8) (received c bytes rest s).block) =
      withOneWord bytes (selected c s.block) := by
    rw [hwords]
    exact finish_opDecAll_one hlen hmatch _
  have hgood : (withOneWord bytes (selected c s.block)).err = 0#3 ∧
      responseValid c (withOneWord bytes (selected c s.block)) = true := by
    simp [responseValid, hwords, withOneWord]
  have hbody : wordsBody c (oneWordView f) s = _ := responseBody_of_view hquiet
    (by simp [responseLength, hwords, hlen]) hreplies hdec hgood (oneWordView_quiet (by exact hquiet) f) hgood
  rw [hexec, hostCall_eq_of_ok hbody, giveResult_received]
  rfl

/-- Settles O47: the commands differ in what the host makes of the word. -/
theorem oneWordCommandsReadAndInterpretTheWord : Obligations.OneWordCommandsReadAndInterpretTheWord := by
  intro s bytes rest m l c hquiet hreplies hmatch i cmd v hmem
  have hgroup : groupMatches [m, l, c] 0 := hmatch
  simp only [List.mem_cons, Prod.mk.injEq, List.not_mem_nil, or_false] at hmem
  rcases hmem with ⟨rfl, rfl, rfl⟩ | ⟨rfl, rfl, rfl⟩ | ⟨rfl, rfl, rfl⟩ | ⟨rfl, rfl, rfl⟩ | ⟨rfl, rfl, rfl⟩
  · exact exec_oneWord_of_match hquiet rfl hgroup hreplies rfl (f := wordValue) fun _ => rfl
  · exact exec_oneWord_of_match hquiet rfl hgroup hreplies rfl (f := wordValue) fun _ => rfl
  · exact exec_oneWord_of_match hquiet rfl hgroup hreplies rfl (f := wordValue) fun _ => rfl
  · exact exec_oneWord_of_match hquiet rfl hgroup hreplies rfl (f := pressureValue) fun _ => rfl
  · exact exec_oneWord_of_match hquiet rfl hgroup hreplies rfl (f := readyValue) fun _ => rfl

/-! ### Three words (R179, R181, R182) -/

theorem groupMatches_of_nine {m0 l0 c0 m1 l1 c1 m2 l2 c2 : Byte} (h0 : crc8 [m0, l0] = c0) (h1 : crc8 [m1, l1] = c1)
    (h2 : crc8 [m2, l2] = c2) : ∀ k < 3, groupMatches [m0, l0, c0, m1, l1, c1, m2, l2, c2] k := by
  intro k hk
  interval_cases k
  · exact h0
  · exact h1
  · exact h2

/-- The block with the results of a conversion of the words of this response. -/
def measured (bytes : List Byte) (b : Block) : Block :=
  { withThreeWords bytes b with
    co2 := responseWord bytes 0, temp := tempF32 (responseWord bytes 1), rh := rhF32 (responseWord bytes 2), mv := true }

/-- The Measurement that a response carries (R181). -/
def measurementOf (bytes : List Byte) : HostValue :=
  .measurement (responseWord bytes 0) (tempF32 (responseWord bytes 1)) (rhF32 (responseWord bytes 2))

section
variable {s : State} (hquiet : s.host.resets = []) {b1 bytes : List Byte} {rest : List TransportReply}
  (hlen : bytes.length = 9) (hmatch : ∀ k < 3, groupMatches bytes k)
  (hreplies : s.host.replies = .ok b1 :: .ok bytes :: rest)
include hquiet hlen hmatch hreplies

theorem exec_getSerialNumber_of_match : exec .getSerialNumber s = .next (if sessionAllows .getSerialNumber s.host then
    ⟨withThreeWords bytes (selected .getSerialNumber s.block), afterReading .getSerialNumber
      (serialValue (responseWord bytes 0) (responseWord bytes 1) (responseWord bytes 2)) rest s.host⟩
    else turnedAway s) := by
  have hbody : wordsBody .getSerialNumber serialView s = _ := responseBody_of_view hquiet hlen hreplies
    (finish_opDecAll_three hlen hmatch _) ⟨rfl, rfl⟩ (serialView_quiet (by exact hquiet)) ⟨rfl, rfl⟩
  rw [exec, execGetSerialNumber, hostCall_eq_of_ok hbody, giveResult_received]
  rfl

theorem measurementBody_of_match : measurementBody s = .ok (measurementOf bytes)
    { received .readMeasurement bytes rest s with block := measured bytes (selected .readMeasurement s.block) } :=
  responseBody_of_view (c := .readMeasurement) (valid := (·.mv)) hquiet hlen hreplies
    (finish_opDecAll_three hlen hmatch _) ⟨rfl, rfl⟩ (measurementView_quiet (by exact hquiet) rfl) ⟨rfl, rfl⟩

theorem exec_readMeasurement_of_match : exec .readMeasurement s = .next (if sessionAllows .readMeasurement s.host then
    ⟨measured bytes (selected .readMeasurement s.block),
      afterReading .readMeasurement (measurementOf bytes) rest s.host⟩
    else turnedAway s) := by
  rw [exec, execReadMeasurement, hostCall_eq_of_ok (measurementBody_of_match hquiet hlen hmatch hreplies),
    giveResult_received]

end

/-- A single shot returns what its read returns, the third exchange. -/
theorem exec_singleShot_of_match {s : State} (hquiet : s.host.resets = []) {b1 b2 b3 bytes : List Byte}
    {rest : List TransportReply} (hlen : bytes.length = 9) (hmatch : ∀ k < 3, groupMatches bytes k)
    (hreplies : s.host.replies = .ok b1 :: .ok b2 :: .ok b3 :: .ok bytes :: rest) :
    exec .singleShotMeasurement s = .next (if sessionAllows .singleShotMeasurement s.host then
      ⟨measured bytes (selected .readMeasurement s.block), afterReading .readMeasurement (measurementOf bytes) rest
        (woken (.ok b3 :: .ok bytes :: rest) s).host⟩
      else turnedAway s) := by
  have hread := measurementBody_of_match (s := woken (.ok b3 :: .ok bytes :: rest) s) hquiet hlen hmatch rfl
  rw [exec, execSingleShotMeasurement, hostCall_eq_of_ok ((singleShotBody_of_woken hquiet hreplies).trans hread),
    giveResult_received]
  rfl

/-- Settles O48: three groups match, and the words are concatenated. -/
theorem serialNumberConcatenatesThreeWords : Obligations.SerialNumberConcatenatesThreeWords := by
  intro s bytes rest m0 l0 c0 m1 l1 c1 m2 l2 c2 hquiet hreplies h0 h1 h2
  exact exec_getSerialNumber_of_match hquiet rfl (groupMatches_of_nine h0 h1 h2) hreplies

/-- Settles O49: three groups match, and `CVT.MEAS` converts the words. -/
theorem readMeasurementReturnsTheConversion : Obligations.ReadMeasurementReturnsTheConversion := by
  intro s bytes rest m0 l0 c0 m1 l1 c1 m2 l2 c2 hquiet hreplies h0 h1 h2
  exact exec_readMeasurement_of_match hquiet rfl (groupMatches_of_nine h0 h1 h2) hreplies

/-- Settles O50: the calls of the trigger and the wake-up stand before those of the read. -/
theorem singleShotIsThreeExchangesInOrder : Obligations.SingleShotIsThreeExchangesInOrder := by
  intro s b1 b2 b3 rest m0 l0 c0 m1 l1 c1 m2 l2 c2 hquiet hreplies h0 h1 h2
  rw [exec_singleShot_of_match hquiet rfl (groupMatches_of_nine h0 h1 h2) hreplies, afterReading, woken,
    List.append_assoc]
  rfl

end Sys2Proof.Machine

/-! PROOFS. The session, and the transport calls of every call, whatever the transport answers and whatever resets fall
inside (spec/70_reset_and_hazards.md R163, R168, R170, R171, R176 to R178). -/

namespace Sys2Proof.Machine

/-! ## The session (R163, R176 to R178, D29) -/

theorem modeAllows_of_idle_only (h : HostSide) : ∀ c ∈ [WireCmd.reinit, .persistSettings, .setSensorAltitude,
    .getSensorAltitude, .setAmbientPressure, .getAmbientPressure, .setAscEnabled, .getAscEnabled, .setAscTarget,
    .getAscTarget], modeAllows c h = (h.mode == some .idle) := by
  simp [modeAllows]

/-- Settles O55: a mode known to be the right one, or for a stop and a read of the measurement one of those allowed. -/
theorem callsAreValidInTheModesOfTheTable : Obligations.CallsAreValidInTheModesOfTheTable := by
  refine fun h => ⟨rfl, beq_iff_eq, ?_, beq_iff_eq, ?_, beq_iff_eq, fun c hc => ?_⟩
  · simp [modeAllows, or_assoc]
  · simp [modeAllows]
  · rw [modeAllows_of_idle_only h c hc, beq_iff_eq]

theorem hostCall_of_not_allowed {c : WireCmd} {s : State} (hforbidden : sessionAllows c s.host ≠ true)
    (body : State → Exchange HostValue) : hostCall c body s = turnedAway s := if_neg hforbidden

/-- Settles O56: every wire command is a host call, and under `STRICT_SESSION` the mode decides. -/
theorem strictSessionTurnsForbiddenCallsAway : Obligations.StrictSessionTurnsForbiddenCallsAway := by
  intro s i c hwire hmode
  obtain ⟨body, _, hexec⟩ := exec_eq_hostCall hwire
  refine ⟨_, hexec s, fun hstrict => hostCall_of_not_allowed ?_ body⟩
  simp [sessionAllows, hstrict, hmode]

/-- Settles O59: the step performs the call, which is the command of `apiInstr`. -/
theorem hostCodedCallsPerformTheCommand : Obligations.HostCodedCallsPerformTheCommand :=
  fun _ _ _ hdue hfree => ⟨step_of_pending hdue hfree, step_of_pending hdue hfree, step_of_pending hdue hfree⟩

/-! ## The order of the transport calls (R171) -/

/-- A whole number of exchanges: what is in order after them is in order with them. -/
def WholeExchanges (calls : List TransportCall) : Prop :=
  ∀ rest, exchangeOrdered rest = true → exchangeOrdered (calls ++ rest) = true

theorem wholeExchanges_nil : WholeExchanges [] := fun _ h => h

theorem wholeExchanges_append {p q : List TransportCall} (hp : WholeExchanges p) (hq : WholeExchanges q) :
    WholeExchanges (p ++ q) := fun rest h => by
  rw [List.append_assoc]
  exact hp _ (hq rest h)

theorem WholeExchanges.ordered {calls : List TransportCall} (h : WholeExchanges calls) : exchangeOrdered calls = true := by
  simpa using h [] rfl

/-- What follows in order does not begin with a read. -/
theorem wholeExchanges_send (a : Byte) (frame : List Byte) (ms : Word32) :
    WholeExchanges [.write a frame, .sleep ms] := fun rest h => by
  cases rest with
  | nil => rfl
  | cons call more => cases call <;> simp_all [exchangeOrdered]

theorem wholeExchanges_read (a a' : Byte) (frame : List Byte) (ms : Word32) (len : Nat) :
    WholeExchanges [.write a frame, .sleep ms, .read a' len] := fun _ h => h

/-- A part of a call, begun with these calls already made, adds calls of which `whole` holds where it goes on, and `early`
where it ends the call. -/
def Adds {α : Type} (whole early : List TransportCall → Prop) (before : List TransportCall) : Exchange α → Prop
  | .ok _ s => ∃ new, s.host.wire = before ++ new ∧ whole new
  | .error _ s | .noReturn s => ∃ new, s.host.wire = before ++ new ∧ early new

/-- The part makes whole exchanges; where it ends the call, the last may have stopped early. -/
abbrev AddsOrdered {α : Type} (before : List TransportCall) (x : Exchange α) : Prop :=
  Adds WholeExchanges (exchangeOrdered · = true) before x

section
variable {α β : Type} {before : List TransportCall} {x : Exchange α} {f : α → State → Exchange β}

theorem Adds.andThen {whole whole' whole'' early early' : List TransportCall → Prop}
    (hx : Adds whole early before x) (hf : ∀ v s, Adds whole' early' s.host.wire (f v s))
    (hwhole : ∀ p q, whole p → whole' q → whole'' (p ++ q)) (hearly : ∀ p q, whole p → early' q → early (p ++ q)) :
    Adds whole'' early before (andThen x f) := by
  cases x with
  | ok v s =>
    obtain ⟨p, hp, hwp⟩ := hx
    have h := hf v s
    rw [Machine.andThen]
    cases hfx : f v s <;> rw [hfx] at h <;> obtain ⟨q, hq, hwq⟩ := h
    · exact ⟨p ++ q, by rw [hq, hp, List.append_assoc], hwhole p q hwp hwq⟩
    · exact ⟨p ++ q, by rw [hq, hp, List.append_assoc], hearly p q hwp hwq⟩
    · exact ⟨p ++ q, by rw [hq, hp, List.append_assoc], hearly p q hwp hwq⟩
  | error e s => exact hx
  | noReturn s => exact hx

theorem AddsOrdered.andThen (hx : AddsOrdered before x) (hf : ∀ v s, AddsOrdered s.host.wire (f v s)) :
    AddsOrdered before (andThen x f) :=
  Adds.andThen hx hf (fun _ _ => wholeExchanges_append) fun _ q hp => hp q

/-- A part that makes no transport call. -/
theorem AddsOrdered.of_wire_eq (h : (endState x).host.wire = before) : AddsOrdered before x := by
  have hnone : (endState x).host.wire = before ++ [] := by rw [h, List.append_nil]
  cases x
  · exact ⟨[], hnone, wholeExchanges_nil⟩
  · exact ⟨[], hnone, rfl⟩
  · exact ⟨[], hnone, rfl⟩

theorem AddsOrdered.exists_ordered (h : AddsOrdered before x) :
    ∃ new, (endState x).host.wire = before ++ new ∧ exchangeOrdered new = true := by
  cases x with
  | ok v s => exact h.imp fun _ hnew => hnew.imp_right WholeExchanges.ordered
  | error | noReturn => exact h

end

/-! ### What each part of a call adds -/

theorem Adds.mono {α : Type} {whole whole' early early' : List TransportCall → Prop} {before : List TransportCall}
    {x : Exchange α} (hx : Adds whole early before x) (hwhole : ∀ p, whole p → whole' p)
    (hearly : ∀ p, early p → early' p) : Adds whole' early' before x := by
  cases x with
  | ok v s => exact hx.imp fun p hp => hp.imp_right (hwhole p)
  | error | noReturn => exact hx.imp fun p hp => hp.imp_right (hearly p)

theorem Adds.isPrefix {α : Type} {whole early : List TransportCall → Prop} {before : List TransportCall}
    {x : Exchange α} (hx : Adds whole early before x) : before <+: (endState x).host.wire := by
  cases x <;> obtain ⟨p, hp, _⟩ := hx <;> exact ⟨p, hp.symm⟩

theorem readFrame_wire (s : State) : (readFrame s).2.host.wire = s.host.wire := by rw [readFrame_host]

/-- The host reads the frame and `STATUS`, and writes what it read only while the row it encoded is selected (R168). -/
theorem sendFrame_cases (s : State) : ∃ u : State, u = accessPoint (readFrame s).2 ∧ u.host.wire = s.host.wire ∧
    ((∃ e, sendFrame s = .error e u) ∨ (u.block.catv = true ∧ sendFrame s = writeBytes (readFrame s).1 u)) := by
  refine ⟨_, rfl, readFrame_wire s, ?_⟩
  rw [sendFrame]
  rcases checkStatus_cases (·.catv) (readFrame s).2 with ⟨_, hcatv, e⟩ | ⟨_, e⟩ | ⟨_, _, e⟩ <;> rw [e]
  · exact .inr ⟨hcatv, rfl⟩
  · exact .inl ⟨_, rfl⟩
  · exact .inl ⟨_, rfl⟩

section
variable (s : State)

theorem writeBytes_adds (frame : List Byte) :
    Adds (· = [.write Config.busAddr frame]) (· = [.write Config.busAddr frame]) s.host.wire (writeBytes frame s) := by
  rcases writeBytes_cases frame s with ⟨_, _, e⟩ | ⟨_, e⟩ | ⟨_, e⟩ <;> rw [e] <;> exact ⟨_, rfl, rfl⟩

theorem readBytes_adds (len : Nat) :
    Adds (· = [.read Config.busAddr len]) (· = [.read Config.busAddr len]) s.host.wire (readBytes len s) := by
  rcases readBytes_cases len s with ⟨_, _, _, e⟩ | ⟨e, _⟩ | ⟨_, e⟩ <;> rw [e] <;> exact ⟨_, rfl, rfl⟩

/-- A write and a delay, or a write, or nothing. -/
theorem sendOnly_adds (c : WireCmd) :
    Adds (∃ frame, · = [.write Config.busAddr frame, .sleep (catalogRow c).delayMs]) (exchangeOrdered · = true)
      s.host.wire (sendOnly c s) := by
  have hframe : Adds (∃ frame, · = [.write Config.busAddr frame]) (exchangeOrdered · = true) s.host.wire
      (sendFrame s) := by
    obtain ⟨u, _, hwire, ⟨e, h⟩ | ⟨_, h⟩⟩ := sendFrame_cases s <;> rw [h]
    · exact ⟨[], by rw [hwire, List.append_nil], rfl⟩
    · rw [← hwire]
      exact (writeBytes_adds u _).mono (fun p hp => ⟨_, hp⟩) fun p hp => hp ▸ rfl
  refine hframe.andThen (whole' := (· = [.sleep (catalogRow c).delayMs])) (early' := fun _ => False)
    (fun _ t => ⟨_, by rw [sleepDelay_eq]; rfl, rfl⟩) ?_ fun _ _ _ h => h.elim
  rintro _ _ ⟨frame, rfl⟩ rfl
  exact ⟨frame, rfl⟩

theorem sendOnly_addsOrdered (c : WireCmd) : AddsOrdered s.host.wire (sendOnly c s) :=
  (sendOnly_adds s c).mono (fun _ ⟨_, hp⟩ => hp ▸ wholeExchanges_send _ _ _) fun _ => id

theorem sendAndRead_addsOrdered (c : WireCmd) : AddsOrdered s.host.wire (sendAndRead c s) := by
  refine (sendOnly_adds s c).andThen (fun _ t => readBytes_adds t _) ?_ ?_
  · rintro _ _ ⟨frame, rfl⟩ rfl
    exact wholeExchanges_read _ _ _ _ _
  · rintro _ _ ⟨frame, rfl⟩ rfl
    rfl

theorem checkStatus_wire (valid : Block → Bool) : (endState (checkStatus valid s)).host.wire = s.host.wire := by
  rcases checkStatus_cases valid s with ⟨_, _, e⟩ | ⟨_, e⟩ | ⟨_, _, e⟩ <;> rw [e] <;> rfl

theorem loadResponse_wire (bytes : List Byte) : (loadResponse bytes s).host.wire = s.host.wire := by
  rw [loadResponse, loadBytes_host]
  rfl

theorem decodeResponse_addsOrdered (c : WireCmd) : AddsOrdered s.host.wire (decodeResponse c s) :=
  .of_wire_eq (checkStatus_wire (hostOperate _ s) _)

theorem exchangeWithResponse_addsOrdered (c : WireCmd) : AddsOrdered s.host.wire (exchangeWithResponse c s) :=
  AddsOrdered.andThen (sendAndRead_addsOrdered (encodeCommand c s) c) fun bytes t => by
    rw [← loadResponse_wire t bytes]
    exact decodeResponse_addsOrdered _ c

theorem plainBody_addsOrdered (c : WireCmd) : AddsOrdered s.host.wire (plainBody c s) :=
  AddsOrdered.andThen (sendOnly_addsOrdered (encodeCommand c s) c) fun _ _ => .of_wire_eq rfl

theorem argumentBody_addsOrdered (c : WireCmd) (arg : Word) : AddsOrdered s.host.wire (argumentBody c arg s) :=
  AddsOrdered.andThen (sendOnly_addsOrdered (encodeWithArgument c arg s) c) fun _ _ => .of_wire_eq rfl

end

/-- The host reads with `view` and makes no transport call. -/
def ReadsOnly (view : State → HostValue × State) : Prop := ∀ s, (view s).2.host.wire = s.host.wire

section
variable {view : State → HostValue × State} (hview : ReadsOnly view) (s : State) (valid : Block → Bool)
include hview

theorem trusted_addsOrdered : AddsOrdered s.host.wire (trusted valid view s) :=
  AddsOrdered.andThen (.of_wire_eq ((checkStatus_wire _ valid).trans (hview s))) fun _ _ => .of_wire_eq rfl

theorem responseBody_addsOrdered (c : WireCmd) : AddsOrdered s.host.wire (responseBody c valid view s) :=
  AddsOrdered.andThen (exchangeWithResponse_addsOrdered s c) fun _ t => trusted_addsOrdered hview t valid

end

theorem measurementView_readsOnly : ReadsOnly measurementView := fun _ => rfl

theorem serialView_readsOnly : ReadsOnly serialView := fun _ => rfl

theorem oneWordView_readsOnly (f : Word → HostValue) : ReadsOnly (oneWordView f) := fun _ => rfl

section
variable {α : Type} {whole early : List TransportCall → Prop} {before : List TransportCall} {x : Exchange α}

theorem Adds.leadingTo (hx : Adds whole early before x) (m : SensorMode) (keeps : Bool) :
    Adds whole early before (leadingTo m keeps x) := by
  cases x <;> simpa [Machine.leadingTo, Adds] using hx

theorem Adds.asWakeupError (hx : Adds whole early before x) : Adds whole early before (asWakeupError x) := by
  cases x <;> exact hx

end

theorem measurementBody_addsOrdered (s : State) : AddsOrdered s.host.wire (measurementBody s) :=
  responseBody_addsOrdered measurementView_readsOnly s _ _

/-- What follows the trigger of a single shot: the wake-up and the read (R179). -/
theorem wakeAndRead_addsOrdered (s : State) : AddsOrdered s.host.wire
    (andThen (asWakeupError (sendOnly .wakeup (encodeCommand .wakeup s)))
      fun _ t => measurementBody (noteMode (some .idle) true t.host.stopOwed t)) :=
  AddsOrdered.andThen (sendOnly_addsOrdered (encodeCommand .wakeup s) .wakeup).asWakeupError fun _ t => by
    rw [← noteMode_wire (some .idle) true t.host.stopOwed t]
    exact measurementBody_addsOrdered _

theorem singleShotBody_addsOrdered (s : State) : AddsOrdered s.host.wire (singleShotBody s) :=
  AddsOrdered.andThen ((sendOnly_addsOrdered (encodeCommand .singleShotMeasurement s) _).leadingTo _ _) fun _ =>
    wakeAndRead_addsOrdered

/-! ### The whole call -/

/-- The calls of an allowed host call are those of its body. -/
theorem hostCall_wire {c : WireCmd} {s : State} (hallowed : sessionAllows c s.host = true)
    (body : State → Exchange HostValue) : (hostCall c body s).host.wire = (endState (body s)).host.wire := by
  rw [hostCall, if_pos hallowed]
  cases body s <;> rfl

/-- A wire instruction is a host call whose body keeps its transport calls in order. -/
theorem exec_addsOrdered {i : Instr} {c : WireCmd} (hwire : wireOf i = some c) : ∃ body,
    (∀ s, exec i s = .next (hostCall c body s)) ∧ ∀ s : State, AddsOrdered s.host.wire (body s) := by
  cases i <;> cases hwire
  case reinit | persistSettings => exact ⟨_, fun _ => rfl, fun s => plainBody_addsOrdered s _⟩
  case wakeup | startPeriodicMeasurement | stopPeriodicMeasurement =>
    exact ⟨_, fun _ => rfl, fun s => (plainBody_addsOrdered s _).leadingTo _ _⟩
  case setSensorAltitude | setAmbientPressure | setAscEnabled | setAscTarget =>
    exact ⟨_, fun _ => rfl, fun s => argumentBody_addsOrdered s _ _⟩
  case getSerialNumber => exact ⟨_, fun _ => rfl, fun s => responseBody_addsOrdered serialView_readsOnly s _ _⟩
  case readMeasurement => exact ⟨_, fun _ => rfl, measurementBody_addsOrdered⟩
  case singleShotMeasurement => exact ⟨_, fun _ => rfl, singleShotBody_addsOrdered⟩
  all_goals exact ⟨_, fun _ => rfl, fun s => responseBody_addsOrdered (oneWordView_readsOnly _) s _ _⟩

theorem exec_operation_host {i : Instr} (hwire : wireOf i = none) {s t : State} (hexec : exec i s = .next t) :
    t.host = s.host := by
  cases i <;> cases hwire <;> cases hexec <;> rfl

/-- Settles O58: an operation of the block makes no transport call, nor does a call that is turned away; the calls of a
body are in order. -/
theorem writePrecedesDelayPrecedesRead : Obligations.WritePrecedesDelayPrecedesRead := by
  intro i s t hexec
  have hnone {u : State} (hu : u.host.wire = s.host.wire) :
      ∃ new, u.host.wire = s.host.wire ++ new ∧ exchangeOrdered new = true := ⟨[], by rw [hu, List.append_nil], rfl⟩
  cases hwire : wireOf i with
  | none => exact hnone (congrArg HostSide.wire (exec_operation_host hwire hexec))
  | some c =>
    obtain ⟨body, hcall, hbody⟩ := exec_addsOrdered hwire
    obtain rfl : hostCall c body s = t := Host.Outcome.next.inj ((hcall s).symm.trans hexec)
    by_cases hallowed : sessionAllows c s.host = true
    · rw [hostCall_wire hallowed]
      exact (hbody s).exists_ordered
    · rw [hostCall_of_not_allowed hallowed]
      exact hnone rfl

/-! ## The first transport call, whatever resets fall inside (R153, R168, R170) -/

/-- After this encoding the frame stands, or a reset before `ENC.ARG` has left no row selected; where no reset is listed,
the frame stands and none is listed still. -/
structure EncodesFrame (frame : List Byte) (enc : State → State) : Prop where
  wire : ∀ s, (enc s).host.wire = s.host.wire
  stands : ∀ s, (enc s).block.catv = true → FrameStands frame (enc s).block
  calm : ∀ s : State, true ∉ s.host.resets → FrameStands frame (enc s).block ∧ true ∉ (enc s).host.resets

theorem calm_of_noReset {s : State} (h : true ∉ s.host.resets) (n : Nat) : Calm n s :=
  fun hmem => h (List.mem_of_mem_take hmem)

theorem noReset_later {s : State} (h : true ∉ s.host.resets) (n : Nat) : true ∉ (later n s).host.resets :=
  fun hmem => h (List.mem_of_mem_drop hmem)

/-- A reset before `ENC.CAT` leaves no trace in the frame. -/
theorem encodeCommand_block (c : WireCmd) (s : State) :
    (encodeCommand c s).block = selected c (accessPoint s).block := by
  rw [encodeCommand, hostOperate, operate_block, opEncCat_index]
  rfl

theorem encodesFrame_encodeCommand (c : WireCmd) : EncodesFrame (be16 (catalogRow c).opcode) (encodeCommand c) where
  wire _ := rfl
  stands s _ := by
    rw [encodeCommand_block]
    exact frameStands_selected c _
  calm s h := by
    rw [encodeCommand_of_calm (calm_of_noReset h 1)]
    exact ⟨frameStands_selected c _, noReset_later h 1⟩

theorem encodesFrame_encodeWithArgument (c : WireCmd) (arg : Word) :
    EncodesFrame (cmdArgFrame (catalogRow c).opcode arg) (encodeWithArgument c arg) where
  wire _ := rfl
  stands s hcatv := by
    have hblock : (encodeWithArgument c arg s).block =
        finish (opEncArg arg (accessPoint (encodeCommand c s)).block) := rfl
    rw [hblock] at hcatv ⊢
    rcases accessPoint_block (encodeCommand c s) with e | e <;> rw [e] at hcatv ⊢
    · rw [encodeCommand_block, opEncArg_of_frame (by rfl)]
      exact frameStands_selectedWithArgument c arg (accessPoint s).block
    · rw [opEncArg_of_no_frame (by decide)] at hcatv
      cases hcatv
  calm s h := by
    rw [encodeWithArgument_of_calm (calm_of_noReset h 2)]
    exact ⟨frameStands_selectedWithArgument c arg s.block, noReset_later h 2⟩

/-- Where a row is selected after the registers were read, no reset came while they were. -/
theorem readTx_of_catv (is : List Nat) {s : State} (hcatv : (readTx is s).2.block.catv = true) :
    (readTx is s).1 = is.map (txAt s.block) ∧ (readTx is s).2.block = s.block := by
  induction is generalizing s with
  | nil => exact ⟨rfl, rfl⟩
  | cons i rest ih =>
    obtain ⟨hbytes, hblock⟩ := ih (s := accessPoint s) hcatv
    have hunreset := accessPoint_unreset (valid := (·.catv)) rfl s (hblock ▸ hcatv)
    rw [hunreset] at hbytes hblock
    refine ⟨?_, hblock⟩
    rw [readTx, hunreset, hbytes, List.map_cons]

theorem readFrame_of_catv {s : State} (hcatv : (readFrame s).2.block.catv = true) :
    (readFrame s).1 = frameBytes s.block ∧ (readFrame s).2.block = s.block := by
  obtain ⟨hbytes, hblock⟩ := readTx_of_catv _ hcatv
  have hunreset := accessPoint_unreset (valid := (·.catv)) rfl s (hblock ▸ hcatv)
  have hregs : readFrame s = readTx ([0, 1, 2, 3, 4].take s.block.txlen.toNat) (accessPoint s) := by
    rw [readFrame, hunreset]
  rw [hunreset] at hbytes hblock
  rw [hregs, frameBytes, ← map_txAt, ← List.map_take]
  exact ⟨hbytes, hblock⟩

/-- From this state, the part of a call first writes this frame; or a reset is listed, and it ends with an error before
any transport call. -/
def WritesFirst {α : Type} (frame : List Byte) (s : State) (x : Exchange α) : Prop :=
  s.host.wire ++ [.write Config.busAddr frame] <+: (endState x).host.wire ∨
  (true ∈ s.host.resets ∧ ∃ e u, x = .error e u ∧ u.host.wire = s.host.wire)

theorem writesFirst_of_writeBytes {frame : List Byte} {s u : State} (hwire : u.host.wire = s.host.wire) :
    WritesFirst frame s (writeBytes frame u) := by
  refine .inl ?_
  rw [← hwire]
  rcases writeBytes_cases frame u with ⟨_, _, e⟩ | ⟨_, e⟩ | ⟨_, e⟩ <;> rw [e] <;> exact List.prefix_rfl

/-- The frame is written only where the row it was built from is still selected, and then it is the encoding. -/
theorem sendFrame_writesFirst {frame : List Byte} {enc : State → State} (henc : EncodesFrame frame enc) (s : State) :
    WritesFirst frame s (sendFrame (enc s)) := by
  by_cases hreset : true ∈ s.host.resets
  · obtain ⟨u, hu, hwire, ⟨e, h⟩ | ⟨hcatv, h⟩⟩ := sendFrame_cases (enc s)
    · exact .inr ⟨hreset, e, u, h, hwire.trans (henc.wire s)⟩
    · subst hu
      have hread := accessPoint_unreset (valid := (·.catv)) rfl (readFrame (enc s)).2 hcatv ▸ hcatv
      obtain ⟨hbytes, hblock⟩ := readFrame_of_catv hread
      rw [h, hbytes, (henc.stands s (hblock ▸ hread)).bytes]
      exact writesFirst_of_writeBytes (hwire.trans (henc.wire s))
  · obtain ⟨hstands, hcalm⟩ := henc.calm s hreset
    rw [sendFrame_of_calm hstands (calm_of_noReset hcalm _)]
    exact writesFirst_of_writeBytes (henc.wire s)

section
variable {α β : Type} {frame : List Byte} {s : State} {x : Exchange α}

theorem WritesFirst.andThen (hx : WritesFirst frame s x) {f : α → State → Exchange β}
    (hf : ∀ v t, t.host.wire <+: (endState (f v t)).host.wire) : WritesFirst frame s (andThen x f) := by
  rcases hx with hprefix | ⟨hreset, e, u, rfl, hwire⟩
  · refine .inl ?_
    cases x with
    | ok v t => exact hprefix.trans (hf v t)
    | error | noReturn => exact hprefix
  · exact .inr ⟨hreset, e, u, rfl, hwire⟩

theorem WritesFirst.leadingTo (hx : WritesFirst frame s x) (m : SensorMode) (keeps : Bool) :
    WritesFirst frame s (leadingTo m keeps x) := by
  rcases hx with hprefix | ⟨hreset, e, u, rfl, hwire⟩
  · refine .inl ?_
    cases x <;> simpa [Machine.leadingTo, endState] using hprefix
  · exact .inr ⟨hreset, e, _, rfl, (noteMode_wire _ _ _ u).trans hwire⟩

end

theorem sendOnly_writesFirst {frame : List Byte} {enc : State → State} (henc : EncodesFrame frame enc) (c : WireCmd)
    (s : State) : WritesFirst frame s (sendOnly c (enc s)) :=
  (sendFrame_writesFirst henc s).andThen fun _ t => by
    rw [sleepDelay_eq]
    exact List.prefix_append _ _

section
variable (c : WireCmd) (s : State)

theorem plainBody_writesFirst : WritesFirst (be16 (catalogRow c).opcode) s (plainBody c s) :=
  (sendOnly_writesFirst (encodesFrame_encodeCommand c) c s).andThen fun _ _ => List.prefix_rfl

theorem argumentBody_writesFirst (arg : Word) :
    WritesFirst (cmdArgFrame (catalogRow c).opcode arg) s (argumentBody c arg s) :=
  (sendOnly_writesFirst (encodesFrame_encodeWithArgument c arg) c s).andThen fun _ _ => List.prefix_rfl

theorem responseBody_writesFirst (valid : Block → Bool) {view : State → HostValue × State} (hview : ReadsOnly view) :
    WritesFirst (be16 (catalogRow c).opcode) s (responseBody c valid view s) := by
  have hread := (sendOnly_writesFirst (encodesFrame_encodeCommand c) c s).andThen
    fun _ t => (readBytes_adds t (responseLength c)).isPrefix
  have hdecode := hread.andThen (f := fun bytes t => decodeResponse c (loadResponse bytes t)) fun bytes t => by
    rw [← loadResponse_wire t bytes]
    exact (decodeResponse_addsOrdered _ c).isPrefix
  exact hdecode.andThen fun _ t => (trusted_addsOrdered hview t valid).isPrefix

theorem singleShotBody_writesFirst :
    WritesFirst (be16 (catalogRow .singleShotMeasurement).opcode) s (singleShotBody s) :=
  ((sendOnly_writesFirst (encodesFrame_encodeCommand .singleShotMeasurement) _ s).leadingTo _ _).andThen
    fun _ t => (wakeAndRead_addsOrdered t).isPrefix

end

/-- A wire instruction is a host call whose body first writes the instruction's encoding. -/
theorem exec_writesFirst {i : Instr} {c : WireCmd} {frame : List Byte} (hwire : wireOf i = some c)
    (hwf : WellFormed i = true) (hframe : encode i = .frame frame) : ∃ body,
      (∀ s, exec i s = .next (hostCall c body s)) ∧ ∀ s, WritesFirst frame s (body s) := by
  cases i <;> cases hwire <;> cases hframe
  case reinit | persistSettings => exact ⟨_, fun _ => rfl, plainBody_writesFirst _⟩
  case wakeup | startPeriodicMeasurement | stopPeriodicMeasurement =>
    exact ⟨_, fun _ => rfl, fun s => (plainBody_writesFirst _ s).leadingTo _ _⟩
  case setSensorAltitude | setAmbientPressure | setAscEnabled | setAscTarget =>
    obtain rfl := eq_of_beq hwf
    exact ⟨_, fun _ => rfl, fun s => argumentBody_writesFirst _ s _⟩
  case getSerialNumber => exact ⟨_, fun _ => rfl, fun s => responseBody_writesFirst _ s _ serialView_readsOnly⟩
  case readMeasurement => exact ⟨_, fun _ => rfl, fun s => responseBody_writesFirst _ s _ measurementView_readsOnly⟩
  case singleShotMeasurement => exact ⟨_, fun _ => rfl, singleShotBody_writesFirst⟩
  all_goals exact ⟨_, fun _ => rfl, fun s => responseBody_writesFirst _ s _ (oneWordView_readsOnly _)⟩

/-- Settles O57: an allowed call does what its body does first; another makes no transport call. -/
theorem theFrameOnTheWireIsTheInstructionsEncoding : Obligations.TheFrameOnTheWireIsTheInstructionsEncoding := by
  intro s i c bytes hwire hwf hframe
  obtain ⟨body, hcall, hbody⟩ := exec_writesFirst hwire hwf hframe
  by_cases hallowed : sessionAllows c s.host = true
  · rcases hbody s with ⟨more, hmore⟩ | ⟨hreset, e, u, hend, hnone⟩
    · refine ⟨_, .write Config.busAddr bytes :: more, hcall s, ?_, fun _ => .inl ⟨more, rfl⟩⟩
      rw [hostCall_wire hallowed, ← hmore, List.append_assoc]
      rfl
    · refine ⟨_, [], hcall s, ?_, fun _ => .inr ⟨hreset, rfl, e, ?_⟩⟩
      · rw [hostCall_wire hallowed, hend, List.append_nil]
        exact hnone
      · rw [hostCall, if_pos hallowed, hend]
        rfl
  · refine ⟨_, [], hcall s, ?_, fun h => absurd h hallowed⟩
    rw [hostCall_of_not_allowed hallowed, List.append_nil]
    rfl

end Sys2Proof.Machine
